-- ==== Sys2Proof/Word.lean ====
section
/-! DEFINITION. The two word types of the machine (spec/00_scope.md section 6): `u8` and `u16`. Arithmetic on them is
that of `BitVec`, which wraps modulo 256 and modulo 65536. -/

namespace Sys2Proof

/-- The spec's `u8`. -/
abbrev Byte := BitVec 8

/-- The spec's `u16`: the program counter and every address. -/
abbrev Addr := BitVec 16

end Sys2Proof
end

