-- ==== Sys2Proof/Config.lean ====
section
/-! DEFINITION. The free values: what the spec leaves open and every claim must hold for (spec/00_scope.md section 5). The
parameters a launch of the machine sets, the two ROM images and the two write flags, stand in State (R5, R6); those a test
of the hardware could settle stand beside the definitions that use them: UNDOC_CLASS in Decode.lean, JMP_IND_PAGE_WRAP in
Machine/Operands.lean, CYCLES in Machine/Timing.lean. -/

namespace Sys2Proof

/-- The cycle charge of IRQ entry: FREE VALUE, the spec gives none (R167, N19). Safe: notes/assumptions/7.md. -/
opaque Config.irqCycles : Nat

/-- The cycle charge of NMI entry: FREE VALUE, the spec gives none (R167, N19). Safe: notes/assumptions/7.md. -/
opaque Config.nmiCycles : Nat

/-- The cycle charge of an undocumented opcode byte: FREE VALUE, the spec gives none (R167, N19). Safe:
notes/assumptions/7.md. -/
opaque Config.undocCycles : Byte → Nat

/-- The cycle count a machine reset leaves, from the count before it: FREE VALUE, the spec gives none (N20, U9). Safe:
notes/assumptions/7.md. -/
opaque Config.cyclesAfterReset : Nat → Nat

end Sys2Proof
end

