-- ==== Sys2Proof/Syntax.lean ====
section
/-! DEFINITION. The instructions (spec/30_encoding.md R40, R41; spec/47_undocumented.md R122). One constructor of `Instr`
per mnemonic of spec/opcode_table.json; the table's rows of one mnemonic are the operand forms of its constructor, and
an operand type holds exactly the forms R41 gives its mnemonics, so that no other form can be written. -/

namespace Sys2Proof

/-- The addressing modes that yield the address of a data byte (R47 to R51, R53, R54), with their operand bytes. -/
inductive AddrMode where
  | zp (d : Byte)
  | zpx (d : Byte)
  | zpy (d : Byte)
  | abs (a : Addr)
  | absx (a : Addr)
  | absy (a : Addr)
  | absxw (a : Addr)
  | absyw (a : Addr)
  | indx (d : Byte)
  | indy (d : Byte)
  | indyw (d : Byte)
  deriving DecidableEq, Repr

/-- Where an instruction that reads one operand byte takes it from: the immediate byte itself (R46) or memory. -/
inductive Source where
  | imm (v : Byte)
  | mem (m : AddrMode)
  deriving DecidableEq, Repr

/-- Where a shift or rotate works: the accumulator (R45) or a byte of memory. -/
inductive Place where
  | acc
  | mem (m : AddrMode)
  deriving DecidableEq, Repr

/-- The eight forms of LDA, ADC, SBC, CMP, AND, ORA and EOR (R41). -/
inductive ReadOp where
  | imm (v : Byte)
  | zp (d : Byte)
  | zpx (d : Byte)
  | abs (a : Addr)
  | absx (a : Addr)
  | absy (a : Addr)
  | indx (d : Byte)
  | indy (d : Byte)
  deriving DecidableEq, Repr

/-- The five forms of LDX (R41, R61). -/
inductive LdxOp where
  | imm (v : Byte)
  | zp (d : Byte)
  | zpy (d : Byte)
  | abs (a : Addr)
  | absy (a : Addr)
  deriving DecidableEq, Repr

/-- The five forms of LDY (R41, R62). -/
inductive LdyOp where
  | imm (v : Byte)
  | zp (d : Byte)
  | zpx (d : Byte)
  | abs (a : Addr)
  | absx (a : Addr)
  deriving DecidableEq, Repr

/-- The seven forms of STA (R41, R63). -/
inductive StaOp where
  | zp (d : Byte)
  | zpx (d : Byte)
  | abs (a : Addr)
  | absxw (a : Addr)
  | absyw (a : Addr)
  | indx (d : Byte)
  | indyw (d : Byte)
  deriving DecidableEq, Repr

/-- The three forms of STX (R41, R64). -/
inductive StxOp where
  | zp (d : Byte)
  | zpy (d : Byte)
  | abs (a : Addr)
  deriving DecidableEq, Repr

/-- The three forms of STY (R41, R65). -/
inductive StyOp where
  | zp (d : Byte)
  | zpx (d : Byte)
  | abs (a : Addr)
  deriving DecidableEq, Repr

/-- The three forms of CPX and CPY (R41, R73, R74). -/
inductive IndexCmpOp where
  | imm (v : Byte)
  | zp (d : Byte)
  | abs (a : Addr)
  deriving DecidableEq, Repr

/-- The five forms of ASL, LSR, ROL and ROR (R41, R79 to R82). -/
inductive ShiftOp where
  | acc
  | zp (d : Byte)
  | zpx (d : Byte)
  | abs (a : Addr)
  | absxw (a : Addr)
  deriving DecidableEq, Repr

/-- The four forms of INC and DEC (R41, R83, R84). -/
inductive IncOp where
  | zp (d : Byte)
  | zpx (d : Byte)
  | abs (a : Addr)
  | absxw (a : Addr)
  deriving DecidableEq, Repr

/-- The two forms of BIT (R41, R89). -/
inductive BitOp where
  | zp (d : Byte)
  | abs (a : Addr)
  deriving DecidableEq, Repr

/-- The two forms of JMP (R41, R96): the target itself, or the address of a pointer to it (R52). -/
inductive JmpOp where
  | abs (a : Addr)
  | ind (p : Addr)
  deriving DecidableEq, Repr

def ReadOp.source : ReadOp → Source
  | .imm v => .imm v
  | .zp d => .mem (.zp d)
  | .zpx d => .mem (.zpx d)
  | .abs a => .mem (.abs a)
  | .absx a => .mem (.absx a)
  | .absy a => .mem (.absy a)
  | .indx d => .mem (.indx d)
  | .indy d => .mem (.indy d)

def LdxOp.source : LdxOp → Source
  | .imm v => .imm v
  | .zp d => .mem (.zp d)
  | .zpy d => .mem (.zpy d)
  | .abs a => .mem (.abs a)
  | .absy a => .mem (.absy a)

def LdyOp.source : LdyOp → Source
  | .imm v => .imm v
  | .zp d => .mem (.zp d)
  | .zpx d => .mem (.zpx d)
  | .abs a => .mem (.abs a)
  | .absx a => .mem (.absx a)

def StaOp.mode : StaOp → AddrMode
  | .zp d => .zp d
  | .zpx d => .zpx d
  | .abs a => .abs a
  | .absxw a => .absxw a
  | .absyw a => .absyw a
  | .indx d => .indx d
  | .indyw d => .indyw d

def StxOp.mode : StxOp → AddrMode
  | .zp d => .zp d
  | .zpy d => .zpy d
  | .abs a => .abs a

def StyOp.mode : StyOp → AddrMode
  | .zp d => .zp d
  | .zpx d => .zpx d
  | .abs a => .abs a

def IndexCmpOp.source : IndexCmpOp → Source
  | .imm v => .imm v
  | .zp d => .mem (.zp d)
  | .abs a => .mem (.abs a)

def ShiftOp.place : ShiftOp → Place
  | .acc => .acc
  | .zp d => .mem (.zp d)
  | .zpx d => .mem (.zpx d)
  | .abs a => .mem (.abs a)
  | .absxw a => .mem (.absxw a)

def IncOp.mode : IncOp → AddrMode
  | .zp d => .zp d
  | .zpx d => .zpx d
  | .abs a => .abs a
  | .absxw a => .absxw a

def BitOp.mode : BitOp → AddrMode
  | .zp d => .zp d
  | .abs a => .abs a

/-- The four behaviour classes of the undocumented opcode bytes (R57, R122). -/
inductive UndocClass where
  | unop1
  | unop2
  | unop3
  | uhang
  deriving DecidableEq, Repr

/-- The instructions. A branch holds its displacement byte (R55). The byte BRK skips (R56) and the bytes UNOP2 and UNOP3
skip (R124, R125) are never read, so they are no operands here; an undocumented instruction holds its opcode byte. -/
inductive Instr where
  | lda (m : ReadOp)
  | ldx (m : LdxOp)
  | ldy (m : LdyOp)
  | sta (m : StaOp)
  | stx (m : StxOp)
  | sty (m : StyOp)
  | adc (m : ReadOp)
  | sbc (m : ReadOp)
  | cmp (m : ReadOp)
  | cpx (m : IndexCmpOp)
  | cpy (m : IndexCmpOp)
  | and (m : ReadOp)
  | ora (m : ReadOp)
  | eor (m : ReadOp)
  | asl (m : ShiftOp)
  | lsr (m : ShiftOp)
  | rol (m : ShiftOp)
  | ror (m : ShiftOp)
  | inc (m : IncOp)
  | dec (m : IncOp)
  | inx
  | iny
  | dex
  | dey
  | bit (m : BitOp)
  | pha
  | php
  | pla
  | plp
  | brk
  | rti
  | jmp (t : JmpOp)
  | jsr (a : Addr)
  | rts
  | bpl (d : Byte)
  | bmi (d : Byte)
  | bvc (d : Byte)
  | bvs (d : Byte)
  | bcc (d : Byte)
  | bcs (d : Byte)
  | bne (d : Byte)
  | beq (d : Byte)
  | tax
  | txa
  | tay
  | tya
  | txs
  | tsx
  | clc
  | sec
  | cli
  | sei
  | clv
  | cld
  | sed
  | nop
  | unop1 (op : Byte)
  | unop2 (op : Byte)
  | unop3 (op : Byte)
  | uhang (op : Byte)
  deriving DecidableEq, Repr

end Sys2Proof
end

