-- ==== Sys2Proof/Decode.lean ====
section
/-! DEFINITION. The decoder and the encoder (spec/30_encoding.md R40, R41, R57; spec/47_undocumented.md R122). The
opcode byte alone decodes an instruction, through the 256-entry matrix of R41 and, for the 105 bytes it leaves empty,
the class table UNDOC_CLASS. Both directions are written from the spec's own tables. -/

namespace Sys2Proof

/-- `hi8(w)` of spec/00_scope.md section 6. -/
def hi8 (w : Addr) : Byte := w.extractLsb' 8 8

/-- `lo8(w)` of spec/00_scope.md section 6. -/
def lo8 (w : Addr) : Byte := w.extractLsb' 0 8

/-- `{h, l}` of spec/00_scope.md section 6. -/
def addrOf (h l : Byte) : Addr := h ++ l

/-- The two operand bytes of format F3, low byte first (R40, R31). -/
def addrBytes (a : Addr) : List Byte := [lo8 a, hi8 a]

/-- What follows an opcode byte, and the instruction it makes (R40, R43). -/
inductive Layout where
  /-- Format F1: nothing follows (R44, R45). -/
  | implied (i : Instr)
  /-- Format F2: one operand byte is fetched. -/
  | byte (k : Byte → Instr)
  /-- Format F3: two operand bytes are fetched, low byte first. -/
  | word (k : Addr → Instr)
  /-- Mode BRKPAD: one byte is skipped and not read (R56). -/
  | padded (i : Instr)
  /-- An undocumented opcode byte of a class (R122): its operation skips what it skips. -/
  | undoc (c : UndocClass)

/-- Row 0x of the matrix of R41. -/
def opcodeRow0 : List (Option Layout) :=
  [some (.padded .brk), some (.byte fun d => .ora (.indx d)),
   none, none,
   none, some (.byte fun d => .ora (.zp d)),
   some (.byte fun d => .asl (.zp d)), none,
   some (.implied .php), some (.byte fun d => .ora (.imm d)),
   some (.implied (.asl .acc)), none,
   none, some (.word fun a => .ora (.abs a)),
   some (.word fun a => .asl (.abs a)), none]

/-- Row 1x of the matrix of R41. -/
def opcodeRow1 : List (Option Layout) :=
  [some (.byte .bpl), some (.byte fun d => .ora (.indy d)),
   none, none,
   none, some (.byte fun d => .ora (.zpx d)),
   some (.byte fun d => .asl (.zpx d)), none,
   some (.implied .clc), some (.word fun a => .ora (.absy a)),
   none, none,
   none, some (.word fun a => .ora (.absx a)),
   some (.word fun a => .asl (.absxw a)), none]

/-- Row 2x of the matrix of R41. -/
def opcodeRow2 : List (Option Layout) :=
  [some (.word .jsr), some (.byte fun d => .and (.indx d)),
   none, none,
   some (.byte fun d => .bit (.zp d)), some (.byte fun d => .and (.zp d)),
   some (.byte fun d => .rol (.zp d)), none,
   some (.implied .plp), some (.byte fun d => .and (.imm d)),
   some (.implied (.rol .acc)), none,
   some (.word fun a => .bit (.abs a)), some (.word fun a => .and (.abs a)),
   some (.word fun a => .rol (.abs a)), none]

/-- Row 3x of the matrix of R41. -/
def opcodeRow3 : List (Option Layout) :=
  [some (.byte .bmi), some (.byte fun d => .and (.indy d)),
   none, none,
   none, some (.byte fun d => .and (.zpx d)),
   some (.byte fun d => .rol (.zpx d)), none,
   some (.implied .sec), some (.word fun a => .and (.absy a)),
   none, none,
   none, some (.word fun a => .and (.absx a)),
   some (.word fun a => .rol (.absxw a)), none]

/-- Row 4x of the matrix of R41. -/
def opcodeRow4 : List (Option Layout) :=
  [some (.implied .rti), some (.byte fun d => .eor (.indx d)),
   none, none,
   none, some (.byte fun d => .eor (.zp d)),
   some (.byte fun d => .lsr (.zp d)), none,
   some (.implied .pha), some (.byte fun d => .eor (.imm d)),
   some (.implied (.lsr .acc)), none,
   some (.word fun a => .jmp (.abs a)), some (.word fun a => .eor (.abs a)),
   some (.word fun a => .lsr (.abs a)), none]

/-- Row 5x of the matrix of R41. -/
def opcodeRow5 : List (Option Layout) :=
  [some (.byte .bvc), some (.byte fun d => .eor (.indy d)),
   none, none,
   none, some (.byte fun d => .eor (.zpx d)),
   some (.byte fun d => .lsr (.zpx d)), none,
   some (.implied .cli), some (.word fun a => .eor (.absy a)),
   none, none,
   none, some (.word fun a => .eor (.absx a)),
   some (.word fun a => .lsr (.absxw a)), none]

/-- Row 6x of the matrix of R41. -/
def opcodeRow6 : List (Option Layout) :=
  [some (.implied .rts), some (.byte fun d => .adc (.indx d)),
   none, none,
   none, some (.byte fun d => .adc (.zp d)),
   some (.byte fun d => .ror (.zp d)), none,
   some (.implied .pla), some (.byte fun d => .adc (.imm d)),
   some (.implied (.ror .acc)), none,
   some (.word fun a => .jmp (.ind a)), some (.word fun a => .adc (.abs a)),
   some (.word fun a => .ror (.abs a)), none]

/-- Row 7x of the matrix of R41. -/
def opcodeRow7 : List (Option Layout) :=
  [some (.byte .bvs), some (.byte fun d => .adc (.indy d)),
   none, none,
   none, some (.byte fun d => .adc (.zpx d)),
   some (.byte fun d => .ror (.zpx d)), none,
   some (.implied .sei), some (.word fun a => .adc (.absy a)),
   none, none,
   none, some (.word fun a => .adc (.absx a)),
   some (.word fun a => .ror (.absxw a)), none]

/-- Row 8x of the matrix of R41. -/
def opcodeRow8 : List (Option Layout) :=
  [none, some (.byte fun d => .sta (.indx d)),
   none, none,
   some (.byte fun d => .sty (.zp d)), some (.byte fun d => .sta (.zp d)),
   some (.byte fun d => .stx (.zp d)), none,
   some (.implied .dey), none,
   some (.implied .txa), none,
   some (.word fun a => .sty (.abs a)), some (.word fun a => .sta (.abs a)),
   some (.word fun a => .stx (.abs a)), none]

/-- Row 9x of the matrix of R41. -/
def opcodeRow9 : List (Option Layout) :=
  [some (.byte .bcc), some (.byte fun d => .sta (.indyw d)),
   none, none,
   some (.byte fun d => .sty (.zpx d)), some (.byte fun d => .sta (.zpx d)),
   some (.byte fun d => .stx (.zpy d)), none,
   some (.implied .tya), some (.word fun a => .sta (.absyw a)),
   some (.implied .txs), none,
   none, some (.word fun a => .sta (.absxw a)),
   none, none]

/-- Row Ax of the matrix of R41. -/
def opcodeRowA : List (Option Layout) :=
  [some (.byte fun d => .ldy (.imm d)), some (.byte fun d => .lda (.indx d)),
   some (.byte fun d => .ldx (.imm d)), none,
   some (.byte fun d => .ldy (.zp d)), some (.byte fun d => .lda (.zp d)),
   some (.byte fun d => .ldx (.zp d)), none,
   some (.implied .tay), some (.byte fun d => .lda (.imm d)),
   some (.implied .tax), none,
   some (.word fun a => .ldy (.abs a)), some (.word fun a => .lda (.abs a)),
   some (.word fun a => .ldx (.abs a)), none]

/-- Row Bx of the matrix of R41. -/
def opcodeRowB : List (Option Layout) :=
  [some (.byte .bcs), some (.byte fun d => .lda (.indy d)),
   none, none,
   some (.byte fun d => .ldy (.zpx d)), some (.byte fun d => .lda (.zpx d)),
   some (.byte fun d => .ldx (.zpy d)), none,
   some (.implied .clv), some (.word fun a => .lda (.absy a)),
   some (.implied .tsx), none,
   some (.word fun a => .ldy (.absx a)), some (.word fun a => .lda (.absx a)),
   some (.word fun a => .ldx (.absy a)), none]

/-- Row Cx of the matrix of R41. -/
def opcodeRowC : List (Option Layout) :=
  [some (.byte fun d => .cpy (.imm d)), some (.byte fun d => .cmp (.indx d)),
   none, none,
   some (.byte fun d => .cpy (.zp d)), some (.byte fun d => .cmp (.zp d)),
   some (.byte fun d => .dec (.zp d)), none,
   some (.implied .iny), some (.byte fun d => .cmp (.imm d)),
   some (.implied .dex), none,
   some (.word fun a => .cpy (.abs a)), some (.word fun a => .cmp (.abs a)),
   some (.word fun a => .dec (.abs a)), none]

/-- Row Dx of the matrix of R41. -/
def opcodeRowD : List (Option Layout) :=
  [some (.byte .bne), some (.byte fun d => .cmp (.indy d)),
   none, none,
   none, some (.byte fun d => .cmp (.zpx d)),
   some (.byte fun d => .dec (.zpx d)), none,
   some (.implied .cld), some (.word fun a => .cmp (.absy a)),
   none, none,
   none, some (.word fun a => .cmp (.absx a)),
   some (.word fun a => .dec (.absxw a)), none]

/-- Row Ex of the matrix of R41. -/
def opcodeRowE : List (Option Layout) :=
  [some (.byte fun d => .cpx (.imm d)), some (.byte fun d => .sbc (.indx d)),
   none, none,
   some (.byte fun d => .cpx (.zp d)), some (.byte fun d => .sbc (.zp d)),
   some (.byte fun d => .inc (.zp d)), none,
   some (.implied .inx), some (.byte fun d => .sbc (.imm d)),
   some (.implied .nop), none,
   some (.word fun a => .cpx (.abs a)), some (.word fun a => .sbc (.abs a)),
   some (.word fun a => .inc (.abs a)), none]

/-- Row Fx of the matrix of R41. -/
def opcodeRowF : List (Option Layout) :=
  [some (.byte .beq), some (.byte fun d => .sbc (.indy d)),
   none, none,
   none, some (.byte fun d => .sbc (.zpx d)),
   some (.byte fun d => .inc (.zpx d)), none,
   some (.implied .sed), some (.word fun a => .sbc (.absy a)),
   none, none,
   none, some (.word fun a => .sbc (.absx a)),
   some (.word fun a => .inc (.absxw a)), none]

/-- The matrix of R41, row after row; `none` at the 105 undocumented bytes. -/
def opcodeMatrix : List (Option Layout) :=
  opcodeRow0 ++ opcodeRow1 ++ opcodeRow2 ++ opcodeRow3 ++ opcodeRow4 ++ opcodeRow5 ++ opcodeRow6 ++ opcodeRow7 ++
  opcodeRow8 ++ opcodeRow9 ++ opcodeRowA ++ opcodeRowB ++ opcodeRowC ++ opcodeRowD ++ opcodeRowE ++ opcodeRowF

/-- The entry of an opcode byte in the matrix; `none` for an undocumented byte. -/
def documented (op : Byte) : Option Layout := opcodeMatrix.getD op.toNat none

/-- The first row of R122: the bytes of class UHANG. -/
def hangBytes : List Byte :=
  [0x02#8, 0x12#8, 0x22#8, 0x32#8, 0x42#8, 0x52#8, 0x62#8, 0x72#8, 0x92#8, 0xB2#8, 0xD2#8, 0xF2#8]

/-- UNDOC_CLASS, the parameter of R7: the class of an undocumented opcode byte. DESIGN CHOICE: the default table of
R122, by R122's formula on the low five bits. Unsafe: notes/assumptions/4.md. -/
def undocClass (op : Byte) : UndocClass :=
  if op ∈ hangBytes then .uhang
  else if op &&& 0x1F#8 = 0x1A#8 then .unop1
  else if op &&& 0x1F#8 ∈ [0x0C#8, 0x0F#8, 0x1B#8, 0x1C#8, 0x1E#8, 0x1F#8] then .unop3
  else .unop2

/-- The instruction an undocumented opcode byte of a class is (R123 to R126). -/
def undocInstr (c : UndocClass) (op : Byte) : Instr :=
  match c with
  | .unop1 => .unop1 op
  | .unop2 => .unop2 op
  | .unop3 => .unop3 op
  | .uhang => .uhang op

/-- How many operand bytes an undocumented instruction of a class skips (R57, R123 to R126). -/
def UndocClass.skipped : UndocClass → Nat
  | .unop1 => 0
  | .unop2 => 1
  | .unop3 => 2
  | .uhang => 0

/-- The layout of every opcode byte: the dispatch table of R43. -/
def layout (op : Byte) : Layout :=
  match documented op with
  | some l => l
  | none => .undoc (undocClass op)

/-- Why a list of bytes is no instruction. No opcode byte is refused (R57): bytes can only be missing. -/
inductive DecodeError where
  /-- There is no opcode byte. -/
  | noOpcode
  /-- An operand byte, or a byte the instruction skips, is missing. -/
  | missingOperand
  deriving DecidableEq, Repr

/-- What the decoder answers: the instruction and the bytes after it, or why there is none. -/
inductive Decoded where
  | ok (i : Instr) (rest : List Byte)
  | rejected (why : DecodeError)
  deriving DecidableEq, Repr

/-- Take `n` skipped bytes off a list. -/
def dropBytes : Nat → List Byte → Option (List Byte)
  | 0, bs => some bs
  | _ + 1, [] => none
  | n + 1, _ :: bs => dropBytes n bs

/-- `decode bytes`: the instruction at the head of a list of bytes (R40, R41), on any bytes. -/
def decode : List Byte → Decoded
  | [] => .rejected .noOpcode
  | op :: bs =>
    match layout op, bs with
    | .implied i, rest => .ok i rest
    | .byte k, d :: rest => .ok (k d) rest
    | .word k, lo :: hi :: rest => .ok (k (addrOf hi lo)) rest
    | .padded i, _ :: rest => .ok i rest
    | .undoc c, rest =>
      match dropBytes c.skipped rest with
      | some rest' => .ok (undocInstr c op) rest'
      | none => .rejected .missingOperand
    | _, _ => .rejected .missingOperand

/-- `encode i`: the bytes of an instruction (R40, R41). A byte the instruction skips is given as 0x00. -/
def encode : Instr → List Byte
  | .lda (.imm d) => [0xA9#8, d]
  | .lda (.zp d) => [0xA5#8, d]
  | .lda (.zpx d) => [0xB5#8, d]
  | .lda (.abs a) => 0xAD#8 :: addrBytes a
  | .lda (.absx a) => 0xBD#8 :: addrBytes a
  | .lda (.absy a) => 0xB9#8 :: addrBytes a
  | .lda (.indx d) => [0xA1#8, d]
  | .lda (.indy d) => [0xB1#8, d]
  | .ldx (.imm d) => [0xA2#8, d]
  | .ldx (.zp d) => [0xA6#8, d]
  | .ldx (.zpy d) => [0xB6#8, d]
  | .ldx (.abs a) => 0xAE#8 :: addrBytes a
  | .ldx (.absy a) => 0xBE#8 :: addrBytes a
  | .ldy (.imm d) => [0xA0#8, d]
  | .ldy (.zp d) => [0xA4#8, d]
  | .ldy (.zpx d) => [0xB4#8, d]
  | .ldy (.abs a) => 0xAC#8 :: addrBytes a
  | .ldy (.absx a) => 0xBC#8 :: addrBytes a
  | .sta (.zp d) => [0x85#8, d]
  | .sta (.zpx d) => [0x95#8, d]
  | .sta (.abs a) => 0x8D#8 :: addrBytes a
  | .sta (.absxw a) => 0x9D#8 :: addrBytes a
  | .sta (.absyw a) => 0x99#8 :: addrBytes a
  | .sta (.indx d) => [0x81#8, d]
  | .sta (.indyw d) => [0x91#8, d]
  | .stx (.zp d) => [0x86#8, d]
  | .stx (.zpy d) => [0x96#8, d]
  | .stx (.abs a) => 0x8E#8 :: addrBytes a
  | .sty (.zp d) => [0x84#8, d]
  | .sty (.zpx d) => [0x94#8, d]
  | .sty (.abs a) => 0x8C#8 :: addrBytes a
  | .adc (.imm d) => [0x69#8, d]
  | .adc (.zp d) => [0x65#8, d]
  | .adc (.zpx d) => [0x75#8, d]
  | .adc (.abs a) => 0x6D#8 :: addrBytes a
  | .adc (.absx a) => 0x7D#8 :: addrBytes a
  | .adc (.absy a) => 0x79#8 :: addrBytes a
  | .adc (.indx d) => [0x61#8, d]
  | .adc (.indy d) => [0x71#8, d]
  | .sbc (.imm d) => [0xE9#8, d]
  | .sbc (.zp d) => [0xE5#8, d]
  | .sbc (.zpx d) => [0xF5#8, d]
  | .sbc (.abs a) => 0xED#8 :: addrBytes a
  | .sbc (.absx a) => 0xFD#8 :: addrBytes a
  | .sbc (.absy a) => 0xF9#8 :: addrBytes a
  | .sbc (.indx d) => [0xE1#8, d]
  | .sbc (.indy d) => [0xF1#8, d]
  | .cmp (.imm d) => [0xC9#8, d]
  | .cmp (.zp d) => [0xC5#8, d]
  | .cmp (.zpx d) => [0xD5#8, d]
  | .cmp (.abs a) => 0xCD#8 :: addrBytes a
  | .cmp (.absx a) => 0xDD#8 :: addrBytes a
  | .cmp (.absy a) => 0xD9#8 :: addrBytes a
  | .cmp (.indx d) => [0xC1#8, d]
  | .cmp (.indy d) => [0xD1#8, d]
  | .cpx (.imm d) => [0xE0#8, d]
  | .cpx (.zp d) => [0xE4#8, d]
  | .cpx (.abs a) => 0xEC#8 :: addrBytes a
  | .cpy (.imm d) => [0xC0#8, d]
  | .cpy (.zp d) => [0xC4#8, d]
  | .cpy (.abs a) => 0xCC#8 :: addrBytes a
  | .and (.imm d) => [0x29#8, d]
  | .and (.zp d) => [0x25#8, d]
  | .and (.zpx d) => [0x35#8, d]
  | .and (.abs a) => 0x2D#8 :: addrBytes a
  | .and (.absx a) => 0x3D#8 :: addrBytes a
  | .and (.absy a) => 0x39#8 :: addrBytes a
  | .and (.indx d) => [0x21#8, d]
  | .and (.indy d) => [0x31#8, d]
  | .ora (.imm d) => [0x09#8, d]
  | .ora (.zp d) => [0x05#8, d]
  | .ora (.zpx d) => [0x15#8, d]
  | .ora (.abs a) => 0x0D#8 :: addrBytes a
  | .ora (.absx a) => 0x1D#8 :: addrBytes a
  | .ora (.absy a) => 0x19#8 :: addrBytes a
  | .ora (.indx d) => [0x01#8, d]
  | .ora (.indy d) => [0x11#8, d]
  | .eor (.imm d) => [0x49#8, d]
  | .eor (.zp d) => [0x45#8, d]
  | .eor (.zpx d) => [0x55#8, d]
  | .eor (.abs a) => 0x4D#8 :: addrBytes a
  | .eor (.absx a) => 0x5D#8 :: addrBytes a
  | .eor (.absy a) => 0x59#8 :: addrBytes a
  | .eor (.indx d) => [0x41#8, d]
  | .eor (.indy d) => [0x51#8, d]
  | .asl .acc => [0x0A#8]
  | .asl (.zp d) => [0x06#8, d]
  | .asl (.zpx d) => [0x16#8, d]
  | .asl (.abs a) => 0x0E#8 :: addrBytes a
  | .asl (.absxw a) => 0x1E#8 :: addrBytes a
  | .lsr .acc => [0x4A#8]
  | .lsr (.zp d) => [0x46#8, d]
  | .lsr (.zpx d) => [0x56#8, d]
  | .lsr (.abs a) => 0x4E#8 :: addrBytes a
  | .lsr (.absxw a) => 0x5E#8 :: addrBytes a
  | .rol .acc => [0x2A#8]
  | .rol (.zp d) => [0x26#8, d]
  | .rol (.zpx d) => [0x36#8, d]
  | .rol (.abs a) => 0x2E#8 :: addrBytes a
  | .rol (.absxw a) => 0x3E#8 :: addrBytes a
  | .ror .acc => [0x6A#8]
  | .ror (.zp d) => [0x66#8, d]
  | .ror (.zpx d) => [0x76#8, d]
  | .ror (.abs a) => 0x6E#8 :: addrBytes a
  | .ror (.absxw a) => 0x7E#8 :: addrBytes a
  | .inc (.zp d) => [0xE6#8, d]
  | .inc (.zpx d) => [0xF6#8, d]
  | .inc (.abs a) => 0xEE#8 :: addrBytes a
  | .inc (.absxw a) => 0xFE#8 :: addrBytes a
  | .dec (.zp d) => [0xC6#8, d]
  | .dec (.zpx d) => [0xD6#8, d]
  | .dec (.abs a) => 0xCE#8 :: addrBytes a
  | .dec (.absxw a) => 0xDE#8 :: addrBytes a
  | .inx => [0xE8#8]
  | .iny => [0xC8#8]
  | .dex => [0xCA#8]
  | .dey => [0x88#8]
  | .bit (.zp d) => [0x24#8, d]
  | .bit (.abs a) => 0x2C#8 :: addrBytes a
  | .pha => [0x48#8]
  | .php => [0x08#8]
  | .pla => [0x68#8]
  | .plp => [0x28#8]
  | .brk => [0x00#8, 0x00#8]
  | .rti => [0x40#8]
  | .jmp (.abs a) => 0x4C#8 :: addrBytes a
  | .jmp (.ind a) => 0x6C#8 :: addrBytes a
  | .jsr a => 0x20#8 :: addrBytes a
  | .rts => [0x60#8]
  | .bpl d => [0x10#8, d]
  | .bmi d => [0x30#8, d]
  | .bvc d => [0x50#8, d]
  | .bvs d => [0x70#8, d]
  | .bcc d => [0x90#8, d]
  | .bcs d => [0xB0#8, d]
  | .bne d => [0xD0#8, d]
  | .beq d => [0xF0#8, d]
  | .tax => [0xAA#8]
  | .txa => [0x8A#8]
  | .tay => [0xA8#8]
  | .tya => [0x98#8]
  | .txs => [0x9A#8]
  | .tsx => [0xBA#8]
  | .clc => [0x18#8]
  | .sec => [0x38#8]
  | .cli => [0x58#8]
  | .sei => [0x78#8]
  | .clv => [0xB8#8]
  | .cld => [0xD8#8]
  | .sed => [0xF8#8]
  | .nop => [0xEA#8]
  | .unop1 op => [op]
  | .unop2 op => [op, 0x00#8]
  | .unop3 op => [op, 0x00#8, 0x00#8]
  | .uhang op => [op]

/-- The length of an instruction in bytes (R40: formats F1, F2, F3). -/
def Instr.length (i : Instr) : Nat := (encode i).length

/-- How many bytes the fetch and resolve phases move PC past (R14, R43): the whole instruction, but for the bytes the
operations of UNOP2 and UNOP3 skip themselves (R124, R125). -/
def Instr.fetchLength : Instr → Nat
  | .unop1 _ => 1
  | .unop2 _ => 1
  | .unop3 _ => 1
  | .uhang _ => 1
  | i => i.length

/-- The three bytes of an instruction whose table bits are `w`: byte `k` holds bits `8k+7..8k` (bytes lie in memory as
the table numbers them), and every bit from `nbits` up is 0. -/
def tableBytes (nbits w : Nat) : List Byte :=
  let v := w % 2 ^ nbits
  [BitVec.ofNat 8 v, BitVec.ofNat 8 (v / 256), BitVec.ofNat 8 (v / 65536)]

/-- What the decoder reads from an instruction whose bits, numbered as spec/opcode_table.json numbers them, are `w`. -/
def decodeTableWord (nbits w : Nat) : Option Instr :=
  match decode (tableBytes nbits w) with
  | .ok i _ => some i
  | .rejected _ => none

end Sys2Proof
end

