-- ==== Sys2Proof/Machine/State.lean ====
section
/-! DEFINITION. The state of the machine as plain data (spec/10_state.md), the reasons a step can stop, and the state
after reset (spec/10_state.md section 8). -/

namespace Sys2Proof.Machine

/-- The backing array of R21: the bytes that differ from `Memory.unlisted`, which an unlisted address reads as, with
their addresses, addresses rising. Its form is `Memory.wf`. -/
abbrev Memory := List Host.Cell

/-- The four registers of the PIA (R22): keyboardData, keyboardControl, displayData, displayControl. -/
structure Pia where
  kbd   : Byte
  kbdcr : Byte
  dsp   : Byte
  dspcr : Byte
  deriving DecidableEq, Repr

/-- The two ROM images, `MONITOR_ROM` and `BASIC_ROM` (R6): exactly 256 and exactly 4096 bytes, both required (R156). -/
structure Roms where
  monitor : Vector Byte 256
  basic   : Vector Byte 4096
  deriving DecidableEq, Repr

/-- The six-field snapshot of the CPU that state export gives and state import takes (R152, R153). -/
structure CpuSnapshot where
  pc : Addr
  p  : Byte
  a  : Byte
  x  : Byte
  y  : Byte
  sp : Byte
  deriving DecidableEq, Repr

/-- The moves of the host that take effect at a fetch boundary only (R151, R152, R153). -/
inductive ControlMove where
  /-- Machine reset (R154). -/
  | machineReset
  /-- State import (R153). -/
  | importState (snap : CpuSnapshot)
  /-- State export (R152), which changes nothing. -/
  | exportState
  deriving DecidableEq, Repr

/-- One atomic move of the host, which may fall between any two byte accesses of the CPU (R36, R148 to R151). -/
inductive HostMove where
  /-- The keyboard collaborator's `writeKeyboardData(v)` (R148, R138). -/
  | writeKeyboardData (v : Byte)
  /-- The keyboard collaborator's `writeKeyboardControl(v)` (R148, R140). -/
  | writeKeyboardControl (v : Byte)
  /-- The display collaborator's `readDisplayData()`, which changes nothing (R149, R141). -/
  | readDisplayData
  /-- The display collaborator's `readDisplayControl()`, which changes nothing (R149, R143). -/
  | readDisplayControl
  /-- The display collaborator's acknowledge `writeDisplayData(dsp & 0x7F)` (R149). -/
  | acknowledgeDisplay
  /-- One byte store of a bulk load, past the write flags and the PIA (R34, R150). -/
  | storeByte (a : Addr) (v : Byte)
  /-- `snapshot(first, last)`, which changes nothing (R35, R150). -/
  | snapshot (first last : Addr)
  /-- The setter of WRITE_PROTECT_HIGH_ROM (R5, R150). -/
  | setWriteProtectHighRom (b : Bool)
  /-- The setter of RAM_EXPANSION_8K (R5, R150). -/
  | setRamExpansion8k (b : Bool)
  /-- `raiseIRQ(level)` (R128, R151). -/
  | raiseIRQ (level : Bool)
  /-- `raiseNMI()` (R128, R151). -/
  | raiseNMI
  /-- A control move asked for now; it waits for the next fetch boundary (R151, R153, C8). -/
  | request (m : ControlMove)
  deriving DecidableEq, Repr

/-- Everything the spec gives the machine (spec/10_state.md). `hostTurns` is the model's own: the host's coming moves. -/
structure State where
  /-- `A`, the accumulator (R11). -/
  a : Byte
  /-- `X` (R11). -/
  x : Byte
  /-- `Y` (R11). -/
  y : Byte
  /-- `SP`, an offset into page 1 (R12). -/
  sp : Byte
  /-- `PC` (R13, R14). -/
  pc : Addr
  /-- `P` (R17); bit 5 has no storage and is read and written through `readP` and `writeP` (R18). -/
  p : Byte
  /-- The backing array `mem` (R21). -/
  mem : Memory
  /-- `WRITE_PROTECT_HIGH_ROM` (R5, R21). -/
  writeProtectHighRom : Bool
  /-- `RAM_EXPANSION_8K` (R5, R21). -/
  ramExpansion8k : Bool
  /-- The ROM images the machine is launched with (R6): each machine reset puts them into `mem` (R155), and no step
  changes them. -/
  roms : Roms
  /-- The PIA (R22). -/
  pia : Pia
  /-- The IRQ level (R23, R128). -/
  irqLine : Bool
  /-- The one-shot NMI flag (R23, R128). -/
  nmiPending : Bool
  /-- The cycle accumulator, which nothing in the machine reads (R23, R167). -/
  cycles : Nat
  /-- Control moves the host has asked for that wait for the next fetch boundary, oldest first (R151, R153). -/
  pendingControl : List ControlMove
  /-- The model's own field: before each coming byte access or sampling point of the CPU, the moves the host makes
  there, first list first (R36, R127); an empty tail means no further move. notes/assumptions/8.md. -/
  hostTurns : List (List HostMove)
  deriving DecidableEq, Repr

/-- Why a step stops with a fault: there is no reason, for the hardware raises none (R132). -/
inductive Fault where
  deriving DecidableEq, Repr

/-- Why a step is refused. -/
inductive Refusal where
  /-- Raised by an arm of `exec` that has no meaning yet, with its mnemonic; no arm raises it. Safe: the run stops. -/
  | notModelled (mnemonic : String)
  deriving DecidableEq, Repr

/-- What a step answers. -/
abbrev Result := Host.Outcome State Fault Refusal

/-- The PIA after its reset (R145). -/
def Pia.reset : Pia := { kbd := 0x80#8, kbdcr := 0x00#8, dsp := 0x00#8, dspcr := 0x00#8 }

/-- ROM images full of zeros. DESIGN CHOICE, for `State.reset` alone: the spec gives no contents (R6, D19). Unsafe:
notes/assumptions/2.md. -/
def Roms.blank : Roms := { monitor := Vector.replicate 256 0x00#8, basic := Vector.replicate 4096 0x00#8 }

/-- The machine right after its first reset (spec/10_state.md section 8); `launch` gives the machine after a reset with any
ROM images and any power-on state. SP, I, the PIA, memory below 0xE000 and the two interrupt flags are the spec's, and PC
is the word the monitor image has at 0xFC; A, X, Y, the other flags, the write flags, the ROM images and `cycles` are
DESIGN CHOICES, since the spec gives none. Unsafe: notes/assumptions/1.md, 2.md, 3.md, 6.md, 8.md. -/
def State.reset : State where
  a := 0x00#8
  x := 0x00#8
  y := 0x00#8
  sp := 0xFF#8
  pc := 0x0000#16
  p := 0x24#8
  mem := []
  writeProtectHighRom := false
  ramExpansion8k := false
  roms := Roms.blank
  pia := Pia.reset
  irqLine := false
  nmiPending := false
  cycles := 0
  pendingControl := []
  hostTurns := []

end Sys2Proof.Machine
end

