-- ==== Sys2Proof/Machine/Memory.lean ====
section
/-! DEFINITION. The backing array (spec/10_state.md R21) in its one canonical form, and the host's bulk operations on it
(spec/20_memory.md R34, R35; spec/70_reset_and_hazards.md R155). -/

namespace Sys2Proof.Machine

/-- What an unlisted address reads as: zero, which R155 gives below 0xE000; for the rest it is the model's choice of
what `State.reset` holds. DESIGN CHOICE: notes/assumptions/2.md, 17.md. -/
def Memory.unlisted : Byte := 0x00#8

/-- The byte listed or unlisted at an address given as a number. -/
def Memory.lookup : Memory → Nat → Byte
  | [], _ => Memory.unlisted
  | c :: cs, k => if c.1 = k then c.2 else Memory.lookup cs k

/-- `mem[a]`. -/
def Memory.read (m : Memory) (a : Addr) : Byte := Memory.lookup m a.toNat

/-- The list without any entry of an address. -/
def Memory.erase : Memory → Nat → Memory
  | [], _ => []
  | c :: cs, k => if c.1 = k then Memory.erase cs k else c :: Memory.erase cs k

/-- Put an entry before the first one of a higher address. -/
def Memory.insert : Memory → Nat → Byte → Memory
  | [], k, v => [(k, v)]
  | c :: cs, k, v => if k < c.1 then (k, v) :: c :: cs else c :: Memory.insert cs k v

/-- `mem[a] <- v`, keeping the canonical form: a byte that an unlisted address reads as is not listed. -/
def Memory.write (m : Memory) (a : Addr) (v : Byte) : Memory :=
  if v = Memory.unlisted then Memory.erase m a.toNat
  else Memory.insert (Memory.erase m a.toNat) a.toNat v

/-- Canonical from an address on: addresses strictly rising from `lo`, below 65536, no entry equal to the unlisted byte. -/
def Memory.wfFrom : Nat → Memory → Bool
  | _, [] => true
  | lo, c :: cs =>
    decide (lo ≤ c.1) && decide (c.1 < 65536) && decide (c.2 ≠ Memory.unlisted) && Memory.wfFrom (c.1 + 1) cs

/-- The canonical form of memory. -/
def Memory.wf (m : Memory) : Bool := Memory.wfFrom 0 m

/-- An image from the address `k` on, as cells. -/
def Memory.imageCells : Nat → List Byte → Memory
  | _, [] => []
  | k, v :: vs => if v = Memory.unlisted then Memory.imageCells (k + 1) vs else (k, v) :: Memory.imageCells (k + 1) vs

/-- The cells of 0xF000 to 0xFEFF, which memory reset does not write (R155). -/
def Memory.kept : Memory → Memory
  | [] => []
  | c :: cs => if 0xF000 ≤ c.1 ∧ c.1 < 0xFF00 then c :: Memory.kept cs else Memory.kept cs

/-- Memory reset (R155): below 0xE000 zero, BASIC_ROM from 0xE000 on, 0xF000 to 0xFEFF as it was, MONITOR_ROM from 0xFF00
on, past the write flags and the PIA. -/
def Memory.reset (r : Roms) (m : Memory) : Memory :=
  Memory.imageCells 0xE000 r.basic.toList ++ (Memory.kept m ++ Memory.imageCells 0xFF00 r.monitor.toList)

/-- LOAD_OVERFLOW_POLICY (R10): what a bulk load does with bytes past 0xFFFF. The spec leaves it open; it is an argument. -/
inductive LoadPolicy where
  | truncate
  | reject
  deriving DecidableEq, Repr

/-- Store bytes at consecutive addresses from `k` on, none at or past 0x10000 (R10, R34). -/
def Memory.storeFrom : Memory → Nat → List Byte → Memory
  | m, _, [] => m
  | m, k, v :: vs =>
    if k < 65536 then Memory.storeFrom (Memory.write m (BitVec.ofNat 16 k) v) (k + 1) vs else m

/-- `loadImage(bytes, start)` (R34) under a policy (R10): past the write flags and the PIA, and never wrapping. -/
def Memory.loadImage (policy : LoadPolicy) (bytes : List Byte) (start : Addr) (m : Memory) : Memory :=
  match policy with
  | .truncate => Memory.storeFrom m start.toNat bytes
  | .reject => if start.toNat + bytes.length ≤ 65536 then Memory.storeFrom m start.toNat bytes else m

/-- `n` bytes of the array from the address `k` on. -/
def Memory.bytesFrom (m : Memory) (k : Nat) : Nat → List Byte
  | 0 => []
  | n + 1 => Memory.lookup m k :: Memory.bytesFrom m (k + 1) n

/-- `snapshot(first, last)`, both ends included (R35); no bytes where `last` lies below `first` (notes/assumptions/18.md). -/
def Memory.snapshot (first last : Addr) (m : Memory) : List Byte :=
  Memory.bytesFrom m first.toNat (last.toNat + 1 - first.toNat)

end Sys2Proof.Machine
end

