-- ==== Sys2Proof/Machine/PiaUnit.lean ====
section
/-! DEFINITION. The eight operations of the PIA (spec/60_exceptions.md R136 to R144). The CPU reaches them through
0xD010 to 0xD013 and the host calls the same ones: the PIA does not know which agent is calling (R136). -/

namespace Sys2Proof.Machine

/-- `readKeyboardData()` (R137): answers `kbd` and forces `kbdcr` to 0x27. -/
def Pia.readKeyboardData (p : Pia) : Byte × Pia := (p.kbd, { p with kbdcr := 0x27#8 })

/-- `writeKeyboardData(v)` (R138): a plain store. -/
def Pia.writeKeyboardData (v : Byte) (p : Pia) : Pia := { p with kbd := v }

/-- `readKeyboardControl()` (R139): a plain accessor. -/
def Pia.readKeyboardControl (p : Pia) : Byte × Pia := (p.kbdcr, p)

/-- `writeKeyboardControl(v)` (R140): from the idle value 0x00 every write gives 0x27, else `v` is stored. -/
def Pia.writeKeyboardControl (v : Byte) (p : Pia) : Pia :=
  if p.kbdcr = 0x00#8 then { p with kbdcr := 0x27#8 } else { p with kbdcr := v }

/-- `readDisplayData()` (R141): a plain accessor. -/
def Pia.readDisplayData (p : Pia) : Byte × Pia := (p.dsp, p)

/-- `writeDisplayData(v)` (R142): stored only while bit 2 of `dspcr` is set. -/
def Pia.writeDisplayData (v : Byte) (p : Pia) : Pia :=
  if p.dspcr.getLsbD 2 then { p with dsp := v } else p

/-- `readDisplayControl()` (R143): a plain accessor. -/
def Pia.readDisplayControl (p : Pia) : Byte × Pia := (p.dspcr, p)

/-- `writeDisplayControl(v)` (R144): a plain store. -/
def Pia.writeDisplayControl (v : Byte) (p : Pia) : Pia := { p with dspcr := v }

/-- The display collaborator's acknowledge (R149): `writeDisplayData(dsp & 0x7F)`, through the same gate. -/
def Pia.acknowledge (p : Pia) : Pia := Pia.writeDisplayData (p.dsp &&& 0x7F#8) p

/-- `PiaRead(a)` (R26); the four addresses alone are asked for. -/
def Pia.read (a : Addr) (p : Pia) : Byte × Pia :=
  if a = 0xD010#16 then p.readKeyboardData
  else if a = 0xD011#16 then p.readKeyboardControl
  else if a = 0xD012#16 then p.readDisplayData
  else p.readDisplayControl

/-- `PiaWrite(a, v)` (R26); the four addresses alone are asked for. -/
def Pia.write (a : Addr) (v : Byte) (p : Pia) : Pia :=
  if a = 0xD010#16 then p.writeKeyboardData v
  else if a = 0xD011#16 then p.writeKeyboardControl v
  else if a = 0xD012#16 then p.writeDisplayData v
  else p.writeDisplayControl v

end Sys2Proof.Machine
end

