-- ==== Sys2Proof/Machine/Registers.lean ====
section
/-! DEFINITION. Named updates of the state, one per piece of it, and the one way `P` is read and written whole
(spec/10_state.md R11 to R18, R21 to R23). -/

namespace Sys2Proof.Machine

def State.withA (v : Byte) (s : State) : State := { s with a := v }
def State.withX (v : Byte) (s : State) : State := { s with x := v }
def State.withY (v : Byte) (s : State) : State := { s with y := v }
def State.withSp (v : Byte) (s : State) : State := { s with sp := v }
def State.withPc (v : Addr) (s : State) : State := { s with pc := v }
def State.withP (v : Byte) (s : State) : State := { s with p := v }
def State.withMem (m : Memory) (s : State) : State := { s with mem := m }
def State.withRoms (r : Roms) (s : State) : State := { s with roms := r }
def State.withPia (q : Pia) (s : State) : State := { s with pia := q }
def State.withWriteProtectHighRom (b : Bool) (s : State) : State := { s with writeProtectHighRom := b }
def State.withRamExpansion8k (b : Bool) (s : State) : State := { s with ramExpansion8k := b }
def State.withIrqLine (b : Bool) (s : State) : State := { s with irqLine := b }
def State.withNmiPending (b : Bool) (s : State) : State := { s with nmiPending := b }
def State.withCycles (n : Nat) (s : State) : State := { s with cycles := n }
def State.withPendingControl (ms : List ControlMove) (s : State) : State := { s with pendingControl := ms }
def State.withHostTurns (ts : List (List HostMove)) (s : State) : State := { s with hostTurns := ts }

/-- Accumulate elapsed cycles (R43, R167). -/
def State.addCycles (n : Nat) (s : State) : State := s.withCycles (s.cycles + n)

/-- The whole of `P` as every copy of it reads: bit 5 has no storage and reads 1 (R18). -/
def State.readP (s : State) : Byte := s.p ||| 0x20#8

/-- Write the whole of `P`: a write to bit 5 is ignored, it stays 1 (R18, R93, R95, R153). -/
def State.writeP (v : Byte) (s : State) : State := s.withP (v ||| 0x20#8)

end Sys2Proof.Machine
end

