-- ==== Sys2Proof/Machine/Flags.lean ====
section
/-! DEFINITION. The flags of `P` (spec/10_state.md R17, R19) and every flag and result computation of the arithmetic,
compare, shift and rotate instructions (spec/41_arith_compare.md R67 to R74; spec/42_logic_shift.md R79 to R82). Sums and
differences are computed in unbounded integers and narrowed at the end, as the rules write them. -/

namespace Sys2Proof.Machine

/-- The bit numbers of R17. -/
def bitC : Nat := 0
def bitZ : Nat := 1
def bitI : Nat := 2
def bitD : Nat := 3
def bitB : Nat := 4
def bitV : Nat := 6
def bitN : Nat := 7

/-- One bit of a byte set to a value, the others kept. -/
def putBit (v : Byte) (k : Nat) (b : Bool) : Byte :=
  if b then v ||| (1#8 <<< k) else v &&& ~~~(1#8 <<< k)

def State.flag (k : Nat) (s : State) : Bool := s.p.getLsbD k
def State.flagC (s : State) : Bool := s.flag bitC
def State.flagZ (s : State) : Bool := s.flag bitZ
def State.flagI (s : State) : Bool := s.flag bitI
def State.flagD (s : State) : Bool := s.flag bitD
def State.flagB (s : State) : Bool := s.flag bitB
def State.flagV (s : State) : Bool := s.flag bitV
def State.flagN (s : State) : Bool := s.flag bitN

def State.setFlag (k : Nat) (b : Bool) (s : State) : State := s.withP (putBit s.p k b)

/-- `SetNZ(v)` (R19). -/
def State.setNZ (v : Byte) (s : State) : State :=
  (s.setFlag bitZ (v == 0x00#8)).setFlag bitN (v.getLsbD 7)

/-- Result byte and flags of ADC, SBC and the compares. -/
structure AluResult where
  r : Byte
  n : Bool
  v : Bool
  z : Bool
  c : Bool
  deriving DecidableEq, Repr

/-- Write the four flags of an ADC or SBC. -/
def State.setNVZC (o : AluResult) (s : State) : State :=
  (((s.setFlag bitN o.n).setFlag bitV o.v).setFlag bitZ o.z).setFlag bitC o.c

/-- Write the three flags of a compare. -/
def State.setNZC (o : AluResult) (s : State) : State :=
  ((s.setFlag bitN o.n).setFlag bitZ o.z).setFlag bitC o.c

/-- The low nibble as a number, `v[3:0]`. -/
def lowDigit (v : Byte) : Nat := (v &&& 0x0F#8).toNat

/-- `v & 0xF0` as a number. -/
def highPart (v : Byte) : Nat := (v &&& 0xF0#8).toNat

/-- `AdcBinary(M)` (R67). -/
def adcBinary (a m : Byte) (c : Bool) : AluResult :=
  let t := a.toNat + m.toNat + c.toNat
  let r := BitVec.ofNat 8 t
  { r := r
    n := r.getLsbD 7
    v := ((a ^^^ r) &&& (m ^^^ r)).getLsbD 7
    z := r == 0x00#8
    c := decide (t > 255) }

/-- The low-digit sum of `AdcDecimal`, corrected and with its carry into the high digit (R68). -/
def adcLowDigit (a m : Byte) (c : Bool) : Nat :=
  let al := lowDigit a + lowDigit m + c.toNat
  if al ≥ 0x0A then (al + 0x06) % 0x10 + 0x10 else al

/-- `AdcDecimal(M)` (R68): N and V from the sum whose high digit is not yet corrected, Z from the binary sum. -/
def adcDecimal (a m : Byte) (c : Bool) : AluResult :=
  let t := highPart a + highPart m + adcLowDigit a m c
  let tb := BitVec.ofNat 8 t
  let t' := if t ≥ 0xA0 then t + 0x60 else t
  { r := BitVec.ofNat 8 t'
    n := tb.getLsbD 7
    v := ((a ^^^ tb) &&& (m ^^^ tb)).getLsbD 7
    z := (a.toNat + m.toNat + c.toNat) % 256 == 0
    c := decide (t' ≥ 0x100) }

/-- `SbcBinary(M)` (R70); `c` is the carry, the borrow in is `1 - c`. -/
def sbcBinary (a m : Byte) (c : Bool) : AluResult :=
  let t : Int := (a.toNat : Int) - m.toNat - (1 - c.toNat)
  let r := BitVec.ofInt 8 t
  { r := r
    n := r.getLsbD 7
    v := ((a ^^^ m) &&& (a ^^^ r)).getLsbD 7
    z := r == 0x00#8
    c := decide (t ≥ 0) }

/-- The low-digit difference of `SbcDecimal`, corrected and with its borrow from the high digit (R71). -/
def sbcLowDigit (a m : Byte) (c : Bool) : Int :=
  let al : Int := (lowDigit a : Int) - lowDigit m - (1 - c.toNat)
  if al < 0 then (al - 6) % 16 - 0x10 else al

/-- `SbcDecimal(M)` (R71): the flags of the binary subtraction, the accumulator corrected digit by digit. -/
def sbcDecimal (a m : Byte) (c : Bool) : AluResult :=
  let t2 : Int := (highPart a : Int) - highPart m + sbcLowDigit a m c
  let t2' := if t2 < 0 then t2 - 0x60 else t2
  { sbcBinary a m c with r := BitVec.ofInt 8 t2' }

/-- The subtraction of CMP, CPX and CPY (R72 to R74): no borrow in, no result kept, V not among its flags. -/
def compare (r m : Byte) : AluResult :=
  let t : Int := (r.toNat : Int) - m.toNat
  { r := BitVec.ofInt 8 t
    n := (BitVec.ofInt 8 t).getLsbD 7
    v := false
    z := decide (t = 0)
    c := decide (t ≥ 0) }

/-- Result byte and carry out of a shift or rotate. -/
structure ShiftResult where
  r : Byte
  c : Bool
  deriving DecidableEq, Repr

/-- ASL (R79). -/
def shiftAsl (v : Byte) (_c : Bool) : ShiftResult := { r := v <<< 1, c := v.getLsbD 7 }

/-- LSR (R80). -/
def shiftLsr (v : Byte) (_c : Bool) : ShiftResult := { r := v >>> 1, c := v.getLsbD 0 }

/-- ROL (R81): the old carry enters bit 0. -/
def shiftRol (v : Byte) (c : Bool) : ShiftResult :=
  { r := (v <<< 1) ||| (BitVec.ofBool c).setWidth 8, c := v.getLsbD 7 }

/-- ROR (R82): the old carry enters bit 7. -/
def shiftRor (v : Byte) (c : Bool) : ShiftResult :=
  { r := (v >>> 1) ||| ((BitVec.ofBool c).setWidth 8 <<< 7), c := v.getLsbD 0 }

end Sys2Proof.Machine
end

