-- ==== Sys2Proof/Machine/HostMoves.lean ====
section
/-! DEFINITION. The host's moves (spec/60_exceptions.md R128, R148 to R151; spec/20_memory.md R34 to R36) and the turn the
host has before each byte access of the CPU. -/

namespace Sys2Proof.Machine

/-- One atomic host move. A control move is only asked for here; it takes effect at the next fetch boundary (R151, R153). -/
def hostMove (m : HostMove) (s : State) : State :=
  match m with
  | .writeKeyboardData v => s.withPia (s.pia.writeKeyboardData v)
  | .writeKeyboardControl v => s.withPia (s.pia.writeKeyboardControl v)
  | .readDisplayData => s.withPia s.pia.readDisplayData.2
  | .readDisplayControl => s.withPia s.pia.readDisplayControl.2
  | .acknowledgeDisplay => s.withPia s.pia.acknowledge
  | .storeByte a v => s.withMem (s.mem.write a v)
  | .snapshot _ _ => s
  | .setWriteProtectHighRom b => s.withWriteProtectHighRom b
  | .setRamExpansion8k b => s.withRamExpansion8k b
  | .raiseIRQ level => s.withIrqLine level
  | .raiseNMI => s.withNmiPending true
  | .request c => s.withPendingControl (s.pendingControl ++ [c])

/-- Host moves one after the other. -/
def hostMoves : List HostMove → State → State
  | [], s => s
  | m :: ms, s => hostMoves ms (hostMove m s)

/-- The host's turn before a byte access or a sampling point of the CPU (R36, R127): it makes the next list of its
coming moves. -/
def hostTurn (s : State) : State :=
  match s.hostTurns with
  | [] => s
  | ms :: rest => hostMoves ms (s.withHostTurns rest)

/-- The byte stores of a bulk load from the address `k` on, as the moves the host makes one by one (R150). -/
def storeMoves : Nat → List Byte → List HostMove
  | _, [] => []
  | k, v :: vs => if k < 65536 then .storeByte (BitVec.ofNat 16 k) v :: storeMoves (k + 1) vs else []

/-- `loadImage(bytes, start)` as the host's byte stores (R34, R150), under a policy (R10). -/
def loadImageMoves (policy : LoadPolicy) (bytes : List Byte) (start : Addr) : List HostMove :=
  match policy with
  | .truncate => storeMoves start.toNat bytes
  | .reject => if start.toNat + bytes.length ≤ 65536 then storeMoves start.toNat bytes else []

end Sys2Proof.Machine
end

