-- ==== Sys2Proof/Machine/Ops.lean ====
section
/-! DEFINITION. The operations every instruction is built from: the two access primitives (spec/20_memory.md R24 to R31),
the stack (spec/10_state.md R15, R16), the fetch of a byte (spec/30_encoding.md R42), taking an interrupt or BRK
(spec/60_exceptions.md R129, R130, R133; spec/44_stack_system.md R94) and returning from one (R95). -/

namespace Sys2Proof.Machine

/-- The four addresses of the PIA; the decode is exact on all 16 bits (R26). -/
def isPia (a : Addr) : Bool := decide (0xD010#16 ≤ a) && decide (a ≤ 0xD013#16)

/-- What a byte access of the CPU at `a` would read now (R24), without its side effect. -/
def State.peek (s : State) (a : Addr) : Byte := if isPia a then (s.pia.read a).1 else s.mem.read a

/-- `MemRead(a, 1)` (R24): the PIA answers at its four addresses, with its side effect; reads are never gated. -/
def busRead (a : Addr) (s : State) : Byte × State :=
  if isPia a then ((s.pia.read a).1, s.withPia (s.pia.read a).2) else (s.mem.read a, s)

/-- Whether a write to `a` is dropped by write protection (R25, R27, R28); not asked for a PIA address. -/
def State.writeProtected (s : State) (a : Addr) : Bool :=
  (s.writeProtectHighRom && decide (0xFF00#16 ≤ a)) ||
  (s.ramExpansion8k && decide (0x2000#16 ≤ a) && decide (a < 0xFF00#16))

/-- `MemWrite(a, 1, v)` (R25): the PIA first, then the two write flags, then the store; a dropped write is silent. -/
def busWrite (a : Addr) (v : Byte) (s : State) : State :=
  if isPia a then s.withPia (s.pia.write a v)
  else if s.writeProtected a then s
  else s.withMem (s.mem.write a v)

/-- A byte read of the CPU: the host may act before it (R36), then `MemRead(a, 1)`. -/
def memRead (a : Addr) (s : State) : Byte × State := busRead a (hostTurn s)

/-- A byte write of the CPU: the host may act before it (R36), then `MemWrite(a, 1, v)`. -/
def memWrite (a : Addr) (v : Byte) (s : State) : State := busWrite a v (hostTurn s)

/-- `MemRead(a, 2)` from two addresses, the low byte's read first (R30, R31). -/
def readTwo (aLo aHi : Addr) (s : State) : Addr × State :=
  let lo := memRead aLo s
  let hi := memRead aHi lo.2
  (addrOf hi.1 lo.1, hi.2)

/-- `MemRead(a, 2)` (R30): the second address wraps modulo 65536. -/
def memRead16 (a : Addr) (s : State) : Addr × State := readTwo a (a + 1#16) s

/-- An address in page zero. -/
def zeroPage (z : Byte) : Addr := addrOf 0x00#8 z

/-- `ReadZp16(z)` (R53): both bytes from page zero. -/
def readZp16 (z : Byte) (s : State) : Addr × State := readTwo (zeroPage z) (zeroPage (z + 1#8)) s

/-- The stack byte `SP` designates, at `0x0100 + SP` (R12). -/
def stackAddr (sp : Byte) : Addr := addrOf 0x01#8 sp

/-- `Push8(v)` (R15): the store comes before the decrement. -/
def push8 (v : Byte) (s : State) : State :=
  let t := memWrite (stackAddr s.sp) v s
  t.withSp (t.sp - 1#8)

/-- `Pull8()` (R16): the increment comes before the read. -/
def pull8 (s : State) : Byte × State :=
  let t := s.withSp (s.sp + 1#8)
  memRead (stackAddr t.sp) t

/-- Push a 16-bit value, high byte first (R31, R97, R129). -/
def push16 (w : Addr) (s : State) : State := push8 (lo8 w) (push8 (hi8 w) s)

/-- Pull a 16-bit value, low byte first (R95, R98). -/
def pull16 (s : State) : Addr × State :=
  let lo := pull8 s
  let hi := pull8 lo.2
  (addrOf hi.1 lo.1, hi.2)

/-- `Fetch8()` (R42). -/
def fetch8 (s : State) : Byte × State :=
  let v := memRead s.pc s
  (v.1, v.2.withPc (v.2.pc + 1#16))

/-- What enters a handler: the BRK instruction, an IRQ or an NMI (R133). -/
inductive Entry where
  | brk
  | irq
  | nmi
  deriving DecidableEq, Repr

/-- The vector of an entry (R33, R133): IRQ and BRK share one. -/
def Entry.vector : Entry → Addr
  | .brk => 0xFFFE#16
  | .irq => 0xFFFE#16
  | .nmi => 0xFFFA#16

/-- The status byte an entry pushes (R94, R129, R130): for BRK, whose stored B is already 1, `P` as it reads; for IRQ and
NMI, `P & 0xEF`. -/
def Entry.status (e : Entry) (s : State) : Byte :=
  match e with
  | .brk => s.readP
  | .irq => s.readP &&& 0xEF#8
  | .nmi => s.readP &&& 0xEF#8

/-- What an entry does to the interrupt inputs (R129, R130): an NMI clears its own pending flag, nothing else is changed. -/
def Entry.acknowledge (e : Entry) (s : State) : State :=
  match e with
  | .brk => s
  | .irq => s
  | .nmi => s.withNmiPending false

/-- TAKING AN EXCEPTION (R94, R129, R130, R133): push PC, high byte first, then the status; set I; acknowledge; load PC
from the vector, low byte first. -/
def enterHandler (e : Entry) (s : State) : State :=
  let s1 := push16 s.pc s
  let s2 := push8 (e.status s1) s1
  let s3 := e.acknowledge (s2.setFlag bitI true)
  let v := memRead16 e.vector s3
  v.2.withPc v.1

/-- RETURNING FROM ONE (R95): pull the status, then PC low, then PC high; no increment. -/
def returnFromHandler (s : State) : State :=
  let v := pull8 s
  let w := pull16 (v.2.writeP v.1)
  w.2.withPc w.1

/-- IRQ sampling and service (R129): a level, masked by I, not cleared. -/
def serviceIrq (s : State) : State :=
  if s.irqLine && !s.flagI then (enterHandler .irq s).addCycles Config.irqCycles else s

/-- NMI sampling and service (R130): one-shot, not masked. -/
def serviceNmi (s : State) : State :=
  if s.nmiPending then (enterHandler .nmi s).addCycles Config.nmiCycles else s

end Sys2Proof.Machine
end

