-- ==== Sys2Proof/Machine/Boundary.lean ====
section
/-! DEFINITION. What happens at a fetch boundary: machine reset (spec/70_reset_and_hazards.md R154 to R158), state export
and import (spec/60_exceptions.md R152, R153), and the sampling of the two interrupt inputs (R127, R131). -/

namespace Sys2Proof.Machine

/-- CPU reset (R157): I set, SP forced to 0xFF, PC from the vector at 0xFFFC; nothing else. -/
def cpuReset (s : State) : State :=
  let t := (s.setFlag bitI true).withSp 0xFF#8
  t.withPc (addrOf (t.peek 0xFFFD#16) (t.peek 0xFFFC#16))

/-- Machine reset (R154): memory reset (R155), PIA reset (R145), CPU reset (R157), in that order, atomically. The cycle
count it leaves is a free value (N20). -/
def machineReset (s : State) : State :=
  cpuReset (((s.withMem (s.mem.reset s.roms)).withPia Pia.reset).withCycles (Config.cyclesAfterReset s.cycles))

/-- A launch of the machine from a power-on state (R9): it takes both ROM images (R6, R156) and is reset before its first
step (R154, R158). -/
def launch (roms : Roms) (powerOn : State) : State := machineReset (powerOn.withRoms roms)

/-- State export (R152): the six registers, P with bit 5 reading 1; it changes nothing. -/
def exportState (s : State) : CpuSnapshot :=
  { pc := s.pc, p := s.readP, a := s.a, x := s.x, y := s.y, sp := s.sp }

/-- State import (R153): the six registers at once. -/
def importState (c : CpuSnapshot) (s : State) : State :=
  (((((s.withPc c.pc).writeP c.p).withA c.a).withX c.x).withY c.y).withSp c.sp

/-- One control move of the host (R151 to R153). -/
def controlMove (m : ControlMove) (s : State) : State :=
  match m with
  | .machineReset => machineReset s
  | .importState c => importState c s
  | .exportState => s

/-- Control moves one after the other. -/
def controlMoves : List ControlMove → State → State
  | [], s => s
  | m :: ms, s => controlMoves ms (controlMove m s)

/-- The control moves that waited for the fetch boundary take effect, oldest first (R151, R153, C8). -/
def drainControl (s : State) : State := controlMoves s.pendingControl (s.withPendingControl [])

/-- Parts (1) and (2) of a CPU step (R127): IRQ first, then NMI (R131). The host may act before each sampling. -/
def boundary (s : State) : State :=
  serviceNmi (hostTurn (serviceIrq (drainControl (hostTurn s))))

end Sys2Proof.Machine
end

