-- ==== Sys2Proof/Machine/Operands.lean ====
section
/-! DEFINITION. The addressing-mode resolver and the operand forms (spec/30_encoding.md R43 to R56). The operand bytes are
fetched already and PC stands past them (R14); the pointer reads of the indirect modes are made here, before the
operation (R43). -/

namespace Sys2Proof.Machine

/-- `zext_8(v)` as an address. -/
def zext16 (v : Byte) : Addr := v.setWidth 16

/-- `sext_8(v)` as a 16-bit displacement (R55). -/
def sext16 (v : Byte) : Addr := v.signExtend 16

/-- The page-crossing penalty of an indexed read: high-byte mismatch after adding the index (R50, R54, R167). -/
def pagePenalty (base ea : Addr) : Nat := if hi8 ea ≠ hi8 base then 1 else 0

/-- JMP_IND_PAGE_WRAP, the parameter of R8 at its default. DESIGN CHOICE; unsafe: notes/assumptions/5.md. -/
def jmpIndPageWrap : Bool := true

/-- `ptr2` of R52: the address of the high byte of the target of `JMP (ind)`. -/
def jmpIndHigh (wrap : Bool) (ptr : Addr) : Addr :=
  if wrap then addrOf (hi8 ptr) (lo8 ptr + 1#8) else ptr + 1#16

/-- Indexed addressing, read variant: the sum wraps modulo 65536, a page crossing charges one cycle (R50, R54). -/
def indexedRead (base : Addr) (i : Byte) (s : State) : Addr × State :=
  (base + zext16 i, s.addCycles (pagePenalty base (base + zext16 i)))

/-- The resolver of a data mode: the effective address `EA` (R47 to R51, R53, R54). The write variants differ from the
read variants in timing only (R51). -/
def resolve (m : AddrMode) (s : State) : Addr × State :=
  match m with
  | .zp d => (zeroPage d, s)
  | .zpx d => (zeroPage (d + s.x), s)
  | .zpy d => (zeroPage (d + s.y), s)
  | .abs a => (a, s)
  | .absx a => indexedRead a s.x s
  | .absy a => indexedRead a s.y s
  | .absxw a => (a + zext16 s.x, s)
  | .absyw a => (a + zext16 s.y, s)
  | .indx d => readZp16 (d + s.x) s
  | .indy d =>
    let b := readZp16 d s
    indexedRead b.1 b.2.y b.2
  | .indyw d =>
    let b := readZp16 d s
    (b.1 + zext16 b.2.y, b.2)

/-- The operand byte of an instruction that reads one: the immediate byte the fetch phase read (R46), or the byte at `EA`. -/
def readSource (r : Source) (s : State) : Byte × State :=
  match r with
  | .imm v => (v, s)
  | .mem m =>
    let e := resolve m s
    memRead e.1 e.2

/-- The target of JMP (R96): the operand (R49), or the word at the pointer (R52). -/
def jumpTarget (t : JmpOp) (s : State) : Addr × State :=
  match t with
  | .abs a => (a, s)
  | .ind p => readTwo p (jmpIndHigh jmpIndPageWrap p) s

/-- The target of a branch (R55): PC is already the address of the next instruction. -/
def branchTarget (d : Byte) (s : State) : Addr := s.pc + sext16 d

/-- An instruction that reads one operand byte and then works on it. -/
def onSource (r : Source) (f : Byte → State → State) (s : State) : Result :=
  let v := readSource r s
  .next (f v.1 v.2)

/-- An instruction that stores one byte at `EA`; the byte at `EA` is not read first (R63, D10). -/
def storeAt (m : AddrMode) (v : State → Byte) (s : State) : Result :=
  let e := resolve m s
  .next (memWrite e.1 (v e.2) e.2)

/-- A read-modify-write instruction: exactly one read at `EA`, then exactly one write there (spec/42_logic_shift.md section
2, spec/43_incdec_bit.md section 1); `f` gives the byte to write and the state with the flags set. -/
def modifyAt (m : AddrMode) (f : Byte → State → Byte × State) (s : State) : Result :=
  let e := resolve m s
  let v := memRead e.1 e.2
  let r := f v.1 v.2
  .next (memWrite e.1 r.1 r.2)

end Sys2Proof.Machine
end

