-- ==== Sys2Proof/Machine/Arith.lean ====
section
/-! DEFINITION. Arithmetic and compare (spec/41_arith_compare.md R66 to R75). -/

namespace Sys2Proof.Machine

/-- Write the result of an ADC or SBC: A and the flags N, V, Z, C. -/
def State.putAlu (o : AluResult) (s : State) : State := (s.withA o.r).setNVZC o

/-- The operation of ADC on its operand byte: P.D chooses binary or decimal (R66). -/
def adcOn (m : Byte) (s : State) : State :=
  if s.flagD then s.putAlu (adcDecimal s.a m s.flagC) else s.putAlu (adcBinary s.a m s.flagC)

/-- The operation of SBC on its operand byte: P.D chooses binary or decimal (R69). -/
def sbcOn (m : Byte) (s : State) : State :=
  if s.flagD then s.putAlu (sbcDecimal s.a m s.flagC) else s.putAlu (sbcBinary s.a m s.flagC)

/-- ADC (R66 to R68). -/
def execAdc (m : ReadOp) (s : State) : Result := onSource m.source adcOn s

/-- SBC (R69 to R71). -/
def execSbc (m : ReadOp) (s : State) : Result := onSource m.source sbcOn s

/-- CMP (R72). -/
def execCmp (m : ReadOp) (s : State) : Result := onSource m.source (fun v t => t.setNZC (compare t.a v)) s

/-- CPX (R73). -/
def execCpx (m : IndexCmpOp) (s : State) : Result := onSource m.source (fun v t => t.setNZC (compare t.x v)) s

/-- CPY (R74). -/
def execCpy (m : IndexCmpOp) (s : State) : Result := onSource m.source (fun v t => t.setNZC (compare t.y v)) s

end Sys2Proof.Machine
end

