-- ==== Sys2Proof/Machine/IncBit.lean ====
section
/-! DEFINITION. Increments, decrements and BIT (spec/43_incdec_bit.md R83 to R89). -/

namespace Sys2Proof.Machine

/-- The flags of BIT: Z from `A & M`, N and V from bits 7 and 6 of `M` (R89). -/
def bitOn (m : Byte) (s : State) : State :=
  ((s.setFlag bitZ (s.a &&& m == 0x00#8)).setFlag bitN (m.getLsbD 7)).setFlag bitV (m.getLsbD 6)

/-- INC (R83). -/
def execInc (m : IncOp) (s : State) : Result := modifyAt m.mode (fun v t => (v + 1#8, t.setNZ (v + 1#8))) s

/-- DEC (R84). -/
def execDec (m : IncOp) (s : State) : Result := modifyAt m.mode (fun v t => (v - 1#8, t.setNZ (v - 1#8))) s

/-- INX (R85). -/
def execInx (s : State) : Result := .next ((s.withX (s.x + 1#8)).setNZ (s.x + 1#8))

/-- INY (R86). -/
def execIny (s : State) : Result := .next ((s.withY (s.y + 1#8)).setNZ (s.y + 1#8))

/-- DEX (R87). -/
def execDex (s : State) : Result := .next ((s.withX (s.x - 1#8)).setNZ (s.x - 1#8))

/-- DEY (R88). -/
def execDey (s : State) : Result := .next ((s.withY (s.y - 1#8)).setNZ (s.y - 1#8))

/-- BIT (R89). -/
def execBit (m : BitOp) (s : State) : Result := onSource (.mem m.mode) bitOn s

end Sys2Proof.Machine
end

