-- ==== Sys2Proof/Machine/JumpBranch.lean ====
section
/-! DEFINITION. Jumps, subroutines and branches (spec/45_jump_branch.md R96 to R107). -/

namespace Sys2Proof.Machine

/-- The extra cycles of a taken branch: 2 where the target lies on another page than the next instruction (R99). -/
def branchPenalty (next target : Addr) : Nat := if hi8 target ≠ hi8 next then 2 else 1

/-- The common rule of the branches (R99). -/
def branchIf (cond : Bool) (d : Byte) (s : State) : Result :=
  if cond then .next ((s.addCycles (branchPenalty s.pc (branchTarget d s))).withPc (branchTarget d s)) else .next s

/-- JMP (R96). -/
def execJmp (t : JmpOp) (s : State) : Result :=
  let e := jumpTarget t s
  .next (e.2.withPc e.1)

/-- JSR (R97): the pushed value is the address of the last byte of the JSR. -/
def execJsr (a : Addr) (s : State) : Result := .next ((push16 (s.pc - 1#16) s).withPc a)

/-- RTS (R98). -/
def execRts (s : State) : Result :=
  let w := pull16 s
  .next (w.2.withPc (w.1 + 1#16))

/-- BPL (R100). -/
def execBpl (d : Byte) (s : State) : Result := branchIf (!s.flagN) d s

/-- BMI (R101). -/
def execBmi (d : Byte) (s : State) : Result := branchIf s.flagN d s

/-- BVC (R102). -/
def execBvc (d : Byte) (s : State) : Result := branchIf (!s.flagV) d s

/-- BVS (R103). -/
def execBvs (d : Byte) (s : State) : Result := branchIf s.flagV d s

/-- BCC (R104). -/
def execBcc (d : Byte) (s : State) : Result := branchIf (!s.flagC) d s

/-- BCS (R105). -/
def execBcs (d : Byte) (s : State) : Result := branchIf s.flagC d s

/-- BNE (R106). -/
def execBne (d : Byte) (s : State) : Result := branchIf (!s.flagZ) d s

/-- BEQ (R107). -/
def execBeq (d : Byte) (s : State) : Result := branchIf s.flagZ d s

end Sys2Proof.Machine
end

