-- ==== Sys2Proof/Machine/LoadStore.lean ====
section
/-! DEFINITION. Loads and stores (spec/40_load_store.md R60 to R65). -/

namespace Sys2Proof.Machine

/-- LDA (R60). -/
def execLda (m : ReadOp) (s : State) : Result := onSource m.source (fun v t => (t.withA v).setNZ v) s

/-- LDX (R61). -/
def execLdx (m : LdxOp) (s : State) : Result := onSource m.source (fun v t => (t.withX v).setNZ v) s

/-- LDY (R62). -/
def execLdy (m : LdyOp) (s : State) : Result := onSource m.source (fun v t => (t.withY v).setNZ v) s

/-- STA (R63). -/
def execSta (m : StaOp) (s : State) : Result := storeAt m.mode State.a s

/-- STX (R64). -/
def execStx (m : StxOp) (s : State) : Result := storeAt m.mode State.x s

/-- STY (R65). -/
def execSty (m : StyOp) (s : State) : Result := storeAt m.mode State.y s

end Sys2Proof.Machine
end

