-- ==== Sys2Proof/Machine/LogicShift.lean ====
section
/-! DEFINITION. Bitwise logic, shifts and rotates (spec/42_logic_shift.md R76 to R82). -/

namespace Sys2Proof.Machine

/-- A logic operation on the accumulator: the result in A, N and Z from it (R76 to R78). -/
def logicOn (f : Byte → Byte → Byte) (m : Byte) (s : State) : State := (s.withA (f s.a m)).setNZ (f s.a m)

/-- The flags of a shift or rotate: C from the bit shifted out, N and Z from the result (R79 to R82). -/
def State.shiftFlags (o : ShiftResult) (s : State) : State := (s.setFlag bitC o.c).setNZ o.r

/-- A shift or rotate in its accumulator form, or as a read-modify-write of the byte at `EA` (R79 to R82). -/
def shiftOn (f : Byte → Bool → ShiftResult) (p : Place) (s : State) : Result :=
  match p with
  | .acc => .next ((s.shiftFlags (f s.a s.flagC)).withA (f s.a s.flagC).r)
  | .mem m => modifyAt m (fun v t => ((f v t.flagC).r, t.shiftFlags (f v t.flagC))) s

/-- AND (R76). -/
def execAnd (m : ReadOp) (s : State) : Result := onSource m.source (logicOn (· &&& ·)) s

/-- ORA (R77). -/
def execOra (m : ReadOp) (s : State) : Result := onSource m.source (logicOn (· ||| ·)) s

/-- EOR (R78). -/
def execEor (m : ReadOp) (s : State) : Result := onSource m.source (logicOn (· ^^^ ·)) s

/-- ASL (R79). -/
def execAsl (m : ShiftOp) (s : State) : Result := shiftOn shiftAsl m.place s

/-- LSR (R80). -/
def execLsr (m : ShiftOp) (s : State) : Result := shiftOn shiftLsr m.place s

/-- ROL (R81). -/
def execRol (m : ShiftOp) (s : State) : Result := shiftOn shiftRol m.place s

/-- ROR (R82). -/
def execRor (m : ShiftOp) (s : State) : Result := shiftOn shiftRor m.place s

end Sys2Proof.Machine
end

