-- ==== Sys2Proof/Machine/StackSystem.lean ====
section
/-! DEFINITION. Stack and system instructions (spec/44_stack_system.md R90 to R95). -/

namespace Sys2Proof.Machine

/-- PHA (R90). -/
def execPha (s : State) : Result := .next (push8 s.a s)

/-- PHP (R91): the pushed copy has bit 4 forced to 1; the stored P is unchanged. -/
def execPhp (s : State) : Result := .next (push8 (s.readP ||| 0x10#8) s)

/-- PLA (R92). -/
def execPla (s : State) : Result :=
  let v := pull8 s
  .next ((v.2.withA v.1).setNZ v.1)

/-- PLP (R93). -/
def execPlp (s : State) : Result :=
  let v := pull8 s
  .next (v.2.writeP v.1)

/-- BRK (R94): set the stored B, then take the exception. PC is the address of the opcode + 2 on entry (R56). -/
def execBrk (s : State) : Result := .next (enterHandler .brk (s.setFlag bitB true))

/-- RTI (R95). -/
def execRti (s : State) : Result := .next (returnFromHandler s)

end Sys2Proof.Machine
end

