-- ==== Sys2Proof/Machine/TransferFlag.lean ====
section
/-! DEFINITION. Register transfers, flag instructions and NOP (spec/46_transfer_flag_nop.md R108 to R121). -/

namespace Sys2Proof.Machine

/-- TAX (R108). -/
def execTax (s : State) : Result := .next ((s.withX s.a).setNZ s.a)

/-- TXA (R109). -/
def execTxa (s : State) : Result := .next ((s.withA s.x).setNZ s.x)

/-- TAY (R110). -/
def execTay (s : State) : Result := .next ((s.withY s.a).setNZ s.a)

/-- TYA (R111). -/
def execTya (s : State) : Result := .next ((s.withA s.y).setNZ s.y)

/-- TXS (R112): the one transfer that writes no flag. -/
def execTxs (s : State) : Result := .next (s.withSp s.x)

/-- TSX (R113). -/
def execTsx (s : State) : Result := .next ((s.withX s.sp).setNZ s.sp)

/-- CLC (R114). -/
def execClc (s : State) : Result := .next (s.setFlag bitC false)

/-- SEC (R115). -/
def execSec (s : State) : Result := .next (s.setFlag bitC true)

/-- CLI (R116). -/
def execCli (s : State) : Result := .next (s.setFlag bitI false)

/-- SEI (R117). -/
def execSei (s : State) : Result := .next (s.setFlag bitI true)

/-- CLV (R118). -/
def execClv (s : State) : Result := .next (s.setFlag bitV false)

/-- CLD (R119). -/
def execCld (s : State) : Result := .next (s.setFlag bitD false)

/-- SED (R120). -/
def execSed (s : State) : Result := .next (s.setFlag bitD true)

/-- NOP (R121): nothing beyond the fetch. -/
def execNop (s : State) : Result := .next s

end Sys2Proof.Machine
end

