-- ==== Sys2Proof/Machine/Undocumented.lean ====
section
/-! DEFINITION. The undocumented opcodes (spec/47_undocumented.md R123 to R126). PC stands one past the opcode byte on
entry; no byte is read and no address is formed. -/

namespace Sys2Proof.Machine

/-- UNOP1 (R123): nothing. -/
def execUnop1 (_op : Byte) (s : State) : Result := .next s

/-- UNOP2 (R124): one byte is skipped. -/
def execUnop2 (_op : Byte) (s : State) : Result := .next (s.withPc (s.pc + 1#16))

/-- UNOP3 (R125): two bytes are skipped. -/
def execUnop3 (_op : Byte) (s : State) : Result := .next (s.withPc (s.pc + 2#16))

/-- UHANG (R126): PC goes back onto the opcode byte. -/
def execUhang (_op : Byte) (s : State) : Result := .next (s.withPc (s.pc - 1#16))

end Sys2Proof.Machine
end

