-- ==== Sys2Proof/Machine/Fetch.lean ====
section
/-! DEFINITION. Fetching an instruction (spec/30_encoding.md R40 to R43): the opcode byte, then the operand bytes its
layout asks for, each through `Fetch8`. Also where an instruction is placed so that the next step fetches it. -/

namespace Sys2Proof.Machine

/-- The fetch phase: the instruction, and the state with PC past the bytes it consumed (R14, R42, R43, R56). -/
def fetchInstr (s : State) : Instr × State :=
  let o := fetch8 s
  match layout o.1 with
  | .implied i => (i, o.2)
  | .byte k =>
    let d := fetch8 o.2
    (k d.1, d.2)
  | .word k =>
    let lo := fetch8 o.2
    let hi := fetch8 lo.2
    (k (addrOf hi.1 lo.1), hi.2)
  | .padded i => (i, o.2.withPc (o.2.pc + 1#16))
  | .undoc c => (undocInstr c o.1, o.2)

/-- Bytes put into the array from an address on, wrapping as PC does (R13). -/
def placeBytes : List Byte → Addr → Memory → Memory
  | [], _, m => m
  | v :: vs, a, m => placeBytes vs (a + 1#16) (m.write a v)

/-- The state with nothing between it and its next fetch: no host move to come, no control move waiting, no interrupt
that would be serviced (R127). -/
def quiesce (s : State) : State :=
  (((s.withHostTurns []).withPendingControl []).withIrqLine (s.irqLine && s.flagI)).withNmiPending false

/-- Bytes put where the next step fetches, as a bulk load would put them (R34), with nothing before the fetch. -/
def placeInstr (bytes : List Byte) (s : State) : State :=
  let t := quiesce s
  t.withMem (placeBytes bytes t.pc t.mem)

end Sys2Proof.Machine
end

