-- ==== Sys2Proof/Machine/Timing.lean ====
section
/-! DEFINITION. CYCLES, the base cycle charge of each instruction (spec/70_reset_and_hazards.md R167), at the default of
R167's table. PRESUMED there from general knowledge, and informational: nothing reads the count. notes/assumptions/6.md.
The page-crossing and branch adjustments are charged where they arise (Operands.lean, JumpBranch.lean). -/

namespace Sys2Proof.Machine

/-- Row `LDA ADC SBC AND ORA EOR CMP` of R167. -/
def readCycles : ReadOp → Nat
  | .imm _ => 2
  | .zp _ => 3
  | .zpx _ => 4
  | .abs _ => 4
  | .absx _ => 4
  | .absy _ => 4
  | .indx _ => 6
  | .indy _ => 5

def ldxCycles : LdxOp → Nat
  | .imm _ => 2
  | .zp _ => 3
  | .zpy _ => 4
  | .abs _ => 4
  | .absy _ => 4

def ldyCycles : LdyOp → Nat
  | .imm _ => 2
  | .zp _ => 3
  | .zpx _ => 4
  | .abs _ => 4
  | .absx _ => 4

/-- The write variants' penalty cycle is part of their base charge (R51, R54, R167). -/
def staCycles : StaOp → Nat
  | .zp _ => 3
  | .zpx _ => 4
  | .abs _ => 4
  | .absxw _ => 5
  | .absyw _ => 5
  | .indx _ => 6
  | .indyw _ => 6

def stxCycles : StxOp → Nat
  | .zp _ => 3
  | .zpy _ => 4
  | .abs _ => 4

def styCycles : StyOp → Nat
  | .zp _ => 3
  | .zpx _ => 4
  | .abs _ => 4

def indexCmpCycles : IndexCmpOp → Nat
  | .imm _ => 2
  | .zp _ => 3
  | .abs _ => 4

def shiftCycles : ShiftOp → Nat
  | .acc => 2
  | .zp _ => 5
  | .zpx _ => 6
  | .abs _ => 6
  | .absxw _ => 7

def incCycles : IncOp → Nat
  | .zp _ => 5
  | .zpx _ => 6
  | .abs _ => 6
  | .absxw _ => 7

def bitCycles : BitOp → Nat
  | .zp _ => 3
  | .abs _ => 4

def jmpCycles : JmpOp → Nat
  | .abs _ => 3
  | .ind _ => 5

/-- `CYCLES[opcode]` (R167); the charge of an undocumented byte is a free value (N19). -/
def baseCycles : Instr → Nat
  | .lda m | .adc m | .sbc m | .and m | .ora m | .eor m | .cmp m => readCycles m
  | .ldx m => ldxCycles m
  | .ldy m => ldyCycles m
  | .sta m => staCycles m
  | .stx m => stxCycles m
  | .sty m => styCycles m
  | .cpx m | .cpy m => indexCmpCycles m
  | .asl m | .lsr m | .rol m | .ror m => shiftCycles m
  | .inc m | .dec m => incCycles m
  | .bit m => bitCycles m
  | .jmp t => jmpCycles t
  | .jsr _ | .rts | .rti => 6
  | .brk => 7
  | .pha | .php => 3
  | .pla | .plp => 4
  | .tax | .txa | .tay | .tya | .txs | .tsx | .inx | .iny | .dex | .dey => 2
  | .clc | .sec | .cli | .sei | .clv | .cld | .sed | .nop => 2
  | .bpl _ | .bmi _ | .bvc _ | .bvs _ | .bcc _ | .bcs _ | .bne _ | .beq _ => 2
  | .unop1 op | .unop2 op | .unop3 op | .uhang op => Config.undocCycles op

/-- Charge the base cycles of an instruction that has completed (R43, R167). -/
def charge (n : Nat) (r : Host.Outcome State Fault Refusal) : Host.Outcome State Fault Refusal :=
  match r with
  | .next t => .next (t.addCycles n)
  | .fault f => .fault f
  | .refused f => .refused f

end Sys2Proof.Machine
end

