-- ==== Sys2Proof/Machine/Step.lean ====
section
/-! DEFINITION. One CPU step (spec/60_exceptions.md R127): IRQ service, NMI service, one instruction. -/

namespace Sys2Proof.Machine

/-- One CPU step (R127). -/
def step (s : State) : Host.Outcome State Fault Refusal :=
  let f := fetchInstr (boundary s)
  charge (baseCycles f.1) (exec f.1 f.2)

/-- The state whose very next step fetches and runs the instruction of the table bits `w`: its bytes stand in the array
at PC, as a bulk load would put them (R34), and nothing comes before the fetch. notes/assumptions/11.md. -/
def State.withFetchWord (s : State) (nbits w : Nat) : State := placeInstr (tableBytes nbits w) s

end Sys2Proof.Machine
end

