-- ==== Sys2Proof/Safety.lean ====
section
/-! DEFINITION. The terms claims about the machine are stated in: when the host is idle, what an access leaves, what an
addressing mode yields, what an instruction leaves alone, and the invariant every step keeps. -/

namespace Sys2Proof.Machine

/-- The host makes no further move while the CPU works (its liberty in R36 and R148 to R151 not taken). -/
def State.hostIdle (s : State) : Prop := s.hostTurns = []

/-- Nothing stands between a state and its next instruction: no host move, no control move waiting, no interrupt that is
serviced (R127). -/
def State.atFetch (s : State) : Prop :=
  s.hostTurns = [] ∧ s.pendingControl = [] ∧ (s.irqLine = true → s.flagI = true) ∧ s.nmiPending = false

/-- What every step keeps: memory in its canonical form (R21), and bit 5 of the stored P at 1 (R18). -/
def State.Inv (s : State) : Prop := s.mem.wf = true ∧ s.p.getLsbD 5 = true

/-- A result that goes on. The hardware has no other (R132). -/
def Continues (r : Host.Outcome State Fault Refusal) : Prop := ∃ t, r = .next t

/-- The PIA after a byte read at an address: 0xD010 is the one address whose read changes state (R39, R137, R161). -/
def Pia.afterRead (a : Addr) (p : Pia) : Pia := if a = 0xD010#16 then { p with kbdcr := 0x27#8 } else p

/-- The word `ReadZp16(z)` reads (R53). -/
def State.zpWord (s : State) (z : Byte) : Addr := addrOf (s.mem.read (zeroPage (z + 1#8))) (s.mem.read (zeroPage z))

/-- `EA` of each data mode as the rules give it (R47 to R51, R53, R54). -/
def effectiveAddress (m : AddrMode) (s : State) : Addr :=
  match m with
  | .zp d => zeroPage d
  | .zpx d => zeroPage (d + s.x)
  | .zpy d => zeroPage (d + s.y)
  | .abs a => a
  | .absx a => a + zext16 s.x
  | .absy a => a + zext16 s.y
  | .absxw a => a + zext16 s.x
  | .absyw a => a + zext16 s.y
  | .indx d => s.zpWord (d + s.x)
  | .indy d => s.zpWord d + zext16 s.y
  | .indyw d => s.zpWord d + zext16 s.y

/-- The page-crossing charge of each data mode: the read variants only (R50, R51, R54). -/
def crossing (m : AddrMode) (s : State) : Nat :=
  match m with
  | .absx a => pagePenalty a (a + zext16 s.x)
  | .absy a => pagePenalty a (a + zext16 s.y)
  | .indy d => pagePenalty (s.zpWord d) (s.zpWord d + zext16 s.y)
  | _ => 0

/-- The operand byte of an instruction that reads one: the immediate byte (R46), or what a read at `EA` gives. -/
def State.sourceByte (s : State) (r : Source) : Byte :=
  match r with
  | .imm v => v
  | .mem m => s.peek (resolve m s).1

/-- The PIA after that operand is read. -/
def State.sourcePia (s : State) (r : Source) : Pia :=
  match r with
  | .imm _ => s.pia
  | .mem m => s.pia.afterRead (resolve m s).1

/-- The cycle count after that operand is read. -/
def State.sourceCycles (s : State) (r : Source) : Nat :=
  match r with
  | .imm _ => s.cycles
  | .mem m => s.cycles + crossing m s

/-- Every bit of `P` but the named ones is as before. -/
def FlagsKept (ks : List Nat) (s t : State) : Prop := ∀ k, k ∉ ks → t.flag k = s.flag k

/-- Every byte of memory reads as before. -/
def MemoryKept (s t : State) : Prop := ∀ b : Addr, t.mem.read b = s.mem.read b

/-- The two write flags, the two interrupt inputs, the host's lists and the ROM images are as before. -/
def InputsKept (s t : State) : Prop :=
  t.writeProtectHighRom = s.writeProtectHighRom ∧ t.ramExpansion8k = s.ramExpansion8k ∧
  t.irqLine = s.irqLine ∧ t.nmiPending = s.nmiPending ∧
  t.pendingControl = s.pendingControl ∧ t.hostTurns = s.hostTurns ∧ t.roms = s.roms

/-- From `s` to `t`, memory and the PIA are as one byte write of `v` at `a` leaves them (R25 to R28): every byte of memory
but the one at `a` reads as before. `p` is the PIA just before the write. -/
def Stored (a : Addr) (v : Byte) (p : Pia) (s t : State) : Prop :=
  (∀ b : Addr, b ≠ a → t.mem.read b = s.mem.read b) ∧
  t.mem.read a = (if isPia a || s.writeProtected a then s.mem.read a else v) ∧
  t.pia = (if isPia a then p.write a v else p)

/-- A, X, Y, SP and PC are as before. -/
def RegsKept (s t : State) : Prop := t.a = s.a ∧ t.x = s.x ∧ t.y = s.y ∧ t.sp = s.sp ∧ t.pc = s.pc

/-- Memory, the PIA, the cycle count and the inputs are as before. -/
def RestKept (s t : State) : Prop := MemoryKept s t ∧ t.pia = s.pia ∧ t.cycles = s.cycles ∧ InputsKept s t

/-- What an instruction that reads one operand keeps besides registers: every bit of `P` but the named ones, memory, the
inputs; the PIA and the cycle count are as the operand read leaves them. -/
def ReadKept (ks : List Nat) (r : Source) (s t : State) : Prop :=
  FlagsKept ks s t ∧ MemoryKept s t ∧ t.pia = s.sourcePia r ∧ t.cycles = s.sourceCycles r ∧ InputsKept s t

/-- `SetNZ(v)` has been done (R19). -/
def NZOf (v : Byte) (t : State) : Prop := t.flagZ = decide (v.toNat = 0) ∧ t.flagN = decide (128 ≤ v.toNat)

/-- The stack page as a pull sees it: the byte `n` places above `SP`, wrapping in page 1 (R12, R16). -/
def State.stackByte (s : State) (n : Byte) : Byte := s.mem.read (stackAddr (s.sp + n))

/-- From `s` to `t`, the listed bytes have been pushed, first one first (R15): they lie at SP, SP - 1, … in page 1, SP is
below them, and every other byte of memory reads as before. -/
def Pushed (vs : List Byte) (s t : State) : Prop :=
  t.sp = s.sp - BitVec.ofNat 8 vs.length ∧
  (∀ n : Nat, n < vs.length → t.mem.read (stackAddr (s.sp - BitVec.ofNat 8 n)) = vs.getD n 0x00#8) ∧
  (∀ b : Addr, (∀ n : Nat, n < vs.length → b ≠ stackAddr (s.sp - BitVec.ofNat 8 n)) → t.mem.read b = s.mem.read b)

/-- What a branch under a condition leaves (R99): PC at the target or at the next instruction, the extra cycles of a
taken branch, and nothing else. -/
def Branched (cond : Bool) (d : Byte) (s t : State) : Prop :=
  (t.pc.toNat : Int) = (if cond then ((s.pc.toNat : Int) + d.toInt) % 65536 else s.pc.toNat) ∧
  t.cycles = s.cycles + (if cond then (if t.pc.toNat / 256 = s.pc.toNat / 256 then 1 else 2) else 0) ∧
  t.a = s.a ∧ t.x = s.x ∧ t.y = s.y ∧ t.sp = s.sp ∧ FlagsKept [] s t ∧ MemoryKept s t ∧ t.pia = s.pia ∧ InputsKept s t

/-- Two states that differ in nothing but the four cells of the backing array under the PIA's addresses (R21, C5). -/
def SameButPiaCells (s t : State) : Prop :=
  t.withMem s.mem = s ∧ ∀ b : Addr, isPia b = false → t.mem.read b = s.mem.read b

/-- The bytes decode to the instruction, whatever follows them. -/
def Decodes (bs : List Byte) (i : Instr) : Prop := ∀ rest : List Byte, decode (bs ++ rest) = .ok i rest

/-- The opcode bytes of the eight forms of an instruction of the LDA kind, in the order of R41's table. -/
def ReadForms (k : ReadOp → Instr) (imm zp zpx abs absx absy indx indy : Byte) : Prop :=
  ∀ b c : Byte,
    Decodes [imm, b] (k (.imm b)) ∧ Decodes [zp, b] (k (.zp b)) ∧ Decodes [zpx, b] (k (.zpx b)) ∧
    Decodes [abs, b, c] (k (.abs (addrOf c b))) ∧ Decodes [absx, b, c] (k (.absx (addrOf c b))) ∧
    Decodes [absy, b, c] (k (.absy (addrOf c b))) ∧ Decodes [indx, b] (k (.indx b)) ∧ Decodes [indy, b] (k (.indy b))

/-- The opcode bytes of the five forms of a shift or rotate. -/
def ShiftForms (k : ShiftOp → Instr) (acc zp zpx abs absxw : Byte) : Prop :=
  ∀ b c : Byte,
    Decodes [acc] (k .acc) ∧ Decodes [zp, b] (k (.zp b)) ∧ Decodes [zpx, b] (k (.zpx b)) ∧
    Decodes [abs, b, c] (k (.abs (addrOf c b))) ∧ Decodes [absxw, b, c] (k (.absxw (addrOf c b)))

/-- The opcode bytes of the four forms of INC or DEC. -/
def IncForms (k : IncOp → Instr) (zp zpx abs absxw : Byte) : Prop :=
  ∀ b c : Byte,
    Decodes [zp, b] (k (.zp b)) ∧ Decodes [zpx, b] (k (.zpx b)) ∧
    Decodes [abs, b, c] (k (.abs (addrOf c b))) ∧ Decodes [absxw, b, c] (k (.absxw (addrOf c b)))

/-- The opcode bytes of the three forms of CPX or CPY. -/
def IndexCmpForms (k : IndexCmpOp → Instr) (imm zp abs : Byte) : Prop :=
  ∀ b c : Byte,
    Decodes [imm, b] (k (.imm b)) ∧ Decodes [zp, b] (k (.zp b)) ∧ Decodes [abs, b, c] (k (.abs (addrOf c b)))

end Sys2Proof.Machine
end

