-- ==== Sys2Proof/WellFormed.lean ====
section
/-! DEFINITION. Which terms of `Instr` are instructions of this machine. The operand types leave no ill-formed operand
form (R41), so what is left to check is that an undocumented instruction holds an opcode byte of its own class (R57, R122). -/

namespace Sys2Proof

/-- An opcode byte the matrix of R41 leaves empty and UNDOC_CLASS puts in the class `c`. -/
def isUndocOf (c : UndocClass) (op : Byte) : Bool := (documented op).isNone && decide (undocClass op = c)

def Instr.wellFormed : Instr → Bool
  | .unop1 op => isUndocOf .unop1 op
  | .unop2 op => isUndocOf .unop2 op
  | .unop3 op => isUndocOf .unop3 op
  | .uhang op => isUndocOf .uhang op
  | _ => true

end Sys2Proof
end

