-- ==== Sys2Proof/Certificates/Slice0/Obligations.lean ====
section
/-! DEFINITION. The statements for the provers: what the spec's numbered rules say the machine does. They hold in every
state, also in states no run reaches; "idle" means that the host makes no move during the instruction (R36), which no
statement about the invariant, the running on or the isolation of the machine assumes.

Some clauses rest on what the spec marks "[from general knowledge, not in source]" or settles by a decision of
92_eei_decisions.md, and their statements are 'derived' for it: the opcode bytes (R41, D11), the bit numbers of P (R17, D1),
bit 5 and B (R18, D2, D3), the order of pushes and pulls and what BRK, JSR, RTS and RTI do with them (D4 to D7), the
zero-page wraps (D8), the page-wrap of JMP (ind) (D9, log entry 5), the class of an undocumented byte (D12, log entry 4),
decimal mode (D13, D14, log entry 15), the flags of the logic, shift, BIT and compare instructions (D15), the target and the
page of a branch (R55, D29). -/

open Sys2Proof Sys2Proof.Machine

/-! ## Encoding -/

/-- R40, R41, R57: decoding the encoding of a well-formed instruction gives it back, whatever follows it. -/
def Obligations.DecodeOfEncodeIsTheInstruction : Prop :=
  ∀ i : Instr, i.wellFormed = true → Decodes (encode i) i

/-- The other direction: what the decoder accepts is a well-formed instruction of the length R40 gives it, its opcode byte
is the one its encoding has, and where no byte is skipped the bytes are its encoding. -/
def Obligations.DecodedBytesAreTheEncoding : Prop :=
  ∀ (bs rest : List Byte) (i : Instr), decode bs = .ok i rest →
    i.wellFormed = true ∧ rest = bs.drop i.length ∧ bs.length = i.length + rest.length ∧
    bs.head? = (encode i).head? ∧
    ((∀ op : Byte, i ≠ .unop2 op ∧ i ≠ .unop3 op) → i ≠ .brk → bs = encode i ++ rest)

/-- R57: every opcode byte decodes, with any two bytes after it; bytes can only be missing. -/
def Obligations.EveryOpcodeByteDecodes : Prop :=
  (∀ op b c : Byte, ∃ i rest, decode [op, b, c] = .ok i rest) ∧ decode [] = .rejected .noOpcode

/-- Words written out from R41, one or more a family, and one of each class of R122. -/
def Obligations.SpecWordsDecode : Prop :=
  decode [0xA9#8, 0x80#8] = .ok (.lda (.imm 0x80#8)) [] ∧
  decode [0x8D#8, 0x00#8, 0x03#8] = .ok (.sta (.abs 0x0300#16)) [] ∧
  decode [0x91#8, 0x20#8, 0xEA#8] = .ok (.sta (.indyw 0x20#8)) [0xEA#8] ∧
  decode [0x69#8, 0x50#8] = .ok (.adc (.imm 0x50#8)) [] ∧
  decode [0x7E#8, 0xFF#8, 0x12#8] = .ok (.ror (.absxw 0x12FF#16)) [] ∧
  decode [0x2C#8, 0x12#8, 0xD0#8] = .ok (.bit (.abs 0xD012#16)) [] ∧
  decode [0x00#8, 0xEA#8] = .ok .brk [] ∧
  decode [0x6C#8, 0x20#8, 0x00#8] = .ok (.jmp (.ind 0x0020#16)) [] ∧
  decode [0xD0#8, 0xFB#8] = .ok (.bne 0xFB#8) [] ∧
  decode [0xBA#8] = .ok .tsx [] ∧
  decode [0x1A#8] = .ok (.unop1 0x1A#8) [] ∧ decode [0x80#8, 0xFF#8] = .ok (.unop2 0x80#8) [] ∧
  decode [0x0C#8, 0x34#8, 0x12#8] = .ok (.unop3 0x0C#8) [] ∧ decode [0x02#8] = .ok (.uhang 0x02#8) []

/-- The default class table (the model's choice of R122's default, log entry 4): of the 256 bytes 151 are documented, and
the others fall into the four classes with the counts R122 gives. -/
def Obligations.UndocumentedClassCounts : Prop :=
  let bytes := (List.range 256).map (BitVec.ofNat 8)
  (bytes.filter fun op => (documented op).isSome).length = 151 ∧
  (bytes.filter (isUndocOf .uhang)).length = 12 ∧ (bytes.filter (isUndocOf .unop1)).length = 6 ∧
  (bytes.filter (isUndocOf .unop2)).length = 54 ∧ (bytes.filter (isUndocOf .unop3)).length = 33

/-! ## The step -/

/-- R127, R43: where the bytes at PC decode to an instruction and nothing comes before the fetch, the step runs it with PC
past the bytes the fetch consumes, and then charges its base cycles. The bytes lie outside the PIA here; fetching through
the PIA is `FetchReadsThroughTheBus`. -/
def Obligations.StepRunsTheDecodedInstruction : Prop :=
  ∀ (s : State) (i : Instr) (rest : List Byte), s.atFetch →
    isPia s.pc = false → isPia (s.pc + 1#16) = false → isPia (s.pc + 2#16) = false →
    decode [s.mem.read s.pc, s.mem.read (s.pc + 1#16), s.mem.read (s.pc + 2#16)] = .ok i rest →
    step s = charge (baseCycles i) (exec i (s.withPc (s.pc + BitVec.ofNat 16 i.fetchLength)))

/-- R42, R13, R39(d): `Fetch8` answers what a data read at PC answers, with its side effect at 0xD010 and nowhere else, and
moves PC on by one modulo 65536. -/
def Obligations.FetchReadsThroughTheBus : Prop :=
  ∀ s : State, s.hostIdle →
    (fetch8 s).1 = s.peek s.pc ∧
    (fetch8 s).2.pc.toNat = (s.pc.toNat + 1) % 65536 ∧
    (fetch8 s).2 = (s.withPia (if s.pc = 0xD010#16 then { s.pia with kbdcr := 0x27#8 } else s.pia)).withPc (fetch8 s).2.pc

/-- R42: `Fetch8` reads at PC through the bus and moves PC on by one modulo 65536, and the operand bytes are fetched with
it, at the addresses after the opcode byte in increasing order, whatever the host does. -/
def Obligations.FetchPhaseUsesFetch8 : Prop :=
  ∀ s : State,
    let opcode := fetch8 s
    let first := fetch8 opcode.2
    let second := fetch8 first.2
    opcode = ((memRead s.pc s).1, (memRead s.pc s).2.withPc opcode.2.pc) ∧
    opcode.2.pc.toNat = (s.pc.toNat + 1) % 65536 ∧ first.2.pc.toNat = (s.pc.toNat + 2) % 65536 ∧
    second.2.pc.toNat = (s.pc.toNat + 3) % 65536 ∧
    (∀ i, layout opcode.1 = .implied i → fetchInstr s = (i, opcode.2)) ∧
    (∀ k, layout opcode.1 = .byte k → fetchInstr s = (k first.1, first.2)) ∧
    (∀ k, layout opcode.1 = .word k → (fetchInstr s).2 = second.2)

/-- R57, R132: no opcode byte traps and the hardware raises nothing: every step of every state goes on, and so does every
instruction, whatever the host does. -/
def Obligations.EveryStepGoesOn : Prop :=
  (∀ s : State, Continues (step s)) ∧ ∀ (i : Instr) (s : State), Continues (exec i s)

/-- Every step, with any host moves in it, keeps memory canonical (R21) and bit 5 of P at 1 (R18). -/
def Obligations.StepKeepsTheInvariant : Prop :=
  ∀ s t : State, s.Inv → step s = .next t → t.Inv

/-- The state after reset meets the invariant. -/
def Obligations.ResetMeetsTheInvariant : Prop := State.reset.Inv

/-- R127, R131: a step that finds interrupts pending runs as the step of the state with both serviced, IRQ first. -/
def Obligations.InterruptsAreServicedBeforeTheInstruction : Prop :=
  ∀ s : State, s.hostIdle → s.pendingControl = [] →
    step s = step (serviceNmi (serviceIrq s)) ∧ (serviceNmi (serviceIrq s)).atFetch

/-- R126, R165 (the class of the byte is the model's choice, log entry 4): a step onto a hang opcode outside the PIA leaves
the whole state as it is but for the cycle count. -/
def Obligations.HangIsAFixedPoint : Prop :=
  ∀ s : State, s.atFetch → isPia s.pc = false → isUndocOf .uhang (s.mem.read s.pc) = true →
    ∃ n, step s = .next (s.withCycles n)

/-- R96, R165: a step onto a JMP to its own address leaves the whole state as it is but for the cycle count. -/
def Obligations.JumpToItselfIsAFixedPoint : Prop :=
  ∀ s : State, s.atFetch → isPia s.pc = false → isPia (s.pc + 1#16) = false → isPia (s.pc + 2#16) = false →
    s.mem.read s.pc = 0x4C#8 → s.mem.read (s.pc + 1#16) = lo8 s.pc → s.mem.read (s.pc + 2#16) = hi8 s.pc →
    step s = .next (s.withCycles (s.cycles + 3))

/-! ## Interrupts -/

/-- R129: IRQ service. The cycles it charges are a free value. -/
def Obligations.IrqServiceRule : Prop :=
  ∀ s : State, s.hostIdle →
    ((s.irqLine = false ∨ s.flagI = true) → serviceIrq s = s) ∧
    (s.irqLine = true → s.flagI = false →
      Pushed [hi8 s.pc, lo8 s.pc, s.readP &&& 0xEF#8] s (serviceIrq s) ∧
      (serviceIrq s).pc = addrOf (s.mem.read 0xFFFF#16) (s.mem.read 0xFFFE#16) ∧
      (serviceIrq s).flagI = true ∧ FlagsKept [bitI] s (serviceIrq s) ∧
      (serviceIrq s).a = s.a ∧ (serviceIrq s).x = s.x ∧ (serviceIrq s).y = s.y ∧
      (serviceIrq s).pia = s.pia ∧ InputsKept s (serviceIrq s))

/-- R130: NMI service, whatever the disable flag. -/
def Obligations.NmiServiceRule : Prop :=
  ∀ s : State, s.hostIdle →
    (s.nmiPending = false → serviceNmi s = s) ∧
    (s.nmiPending = true →
      Pushed [hi8 s.pc, lo8 s.pc, s.readP &&& 0xEF#8] s (serviceNmi s) ∧
      (serviceNmi s).pc = addrOf (s.mem.read 0xFFFB#16) (s.mem.read 0xFFFA#16) ∧
      (serviceNmi s).flagI = true ∧ FlagsKept [bitI] s (serviceNmi s) ∧
      (serviceNmi s).nmiPending = false ∧ (serviceNmi s).irqLine = s.irqLine ∧
      (serviceNmi s).a = s.a ∧ (serviceNmi s).x = s.x ∧ (serviceNmi s).y = s.y ∧ (serviceNmi s).pia = s.pia ∧
      (serviceNmi s).writeProtectHighRom = s.writeProtectHighRom ∧ (serviceNmi s).ramExpansion8k = s.ramExpansion8k ∧
      (serviceNmi s).pendingControl = s.pendingControl ∧ (serviceNmi s).hostTurns = s.hostTurns ∧
      (serviceNmi s).roms = s.roms)

/-- R131: both pending with I clear: the IRQ frame lies under the NMI frame, whose return address is the IRQ handler and
whose status has I set, and the NMI handler comes first. -/
def Obligations.IrqFrameLiesUnderNmiFrame : Prop :=
  ∀ s : State, s.hostIdle → s.irqLine = true → s.flagI = false → s.nmiPending = true →
    Pushed [hi8 s.pc, lo8 s.pc, s.readP &&& 0xEF#8, s.mem.read 0xFFFF#16, s.mem.read 0xFFFE#16,
      (s.readP &&& 0xEF#8) ||| 0x04#8] s (serviceNmi (serviceIrq s)) ∧
    (serviceNmi (serviceIrq s)).pc = addrOf (s.mem.read 0xFFFB#16) (s.mem.read 0xFFFA#16) ∧
    (serviceNmi (serviceIrq s)).irqLine = true ∧ (serviceNmi (serviceIrq s)).nmiPending = false

/-- R95, R134: RTI from an interrupt's frame goes back to the interrupted program: its PC, its SP, its flags (B clear), its
registers. -/
def Obligations.RtiUndoesAnInterruptEntry : Prop :=
  ∀ (s : State) (e : Entry), s.hostIdle →
    ∃ t, exec .rti (enterHandler e s) = .next t ∧ t.pc = s.pc ∧ t.sp = s.sp ∧
      FlagsKept [bitB, 5] s t ∧ t.flagB = (if e = .brk then s.flagB else false) ∧
      t.a = s.a ∧ t.x = s.x ∧ t.y = s.y

/-! ## Memory and the PIA -/

/-- R24: a read answers the stored byte, or the PIA at its four addresses; it changes no byte of memory, and nothing at all
but the PIA at 0xD010. Fetches, operand reads, pulls, zero-page pointer reads and vector reads are reads of this kind: that
a pull increments SP first is decision D4, that a zero-page pointer wraps in its page is decision D8. -/
def Obligations.ReadAnswersTheStoredByte : Prop :=
  ∀ (s : State) (a : Addr), s.hostIdle →
    ((a.toNat < 0xD010 ∨ 0xD013 < a.toNat) → memRead a s = (s.mem.read a, s)) ∧
    (0xD010 ≤ a.toNat → a.toNat ≤ 0xD013 → memRead a s = ((s.pia.read a).1, s.withPia (s.pia.read a).2)) ∧
    fetch8 s = ((memRead s.pc s).1, (memRead s.pc s).2.withPc (s.pc + 1#16)) ∧
    (∀ m : AddrMode, readSource (.mem m) s = memRead (resolve m s).1 (resolve m s).2) ∧
    pull8 s = memRead (stackAddr (s.sp + 1#8)) (s.withSp (s.sp + 1#8)) ∧
    (∀ z : Byte, (readZp16 z s).1 =
      addrOf (memRead (zeroPage (z + 1#8)) (memRead (zeroPage z) s).2).1 (memRead (zeroPage z) s).1) ∧
    (memRead16 a s).1 = addrOf (memRead (a + 1#16) (memRead a s).2).1 (memRead a s).1

/-- R25, R27, R28: a write reaches the PIA, is dropped, or is stored, in that order of tests; every other byte is as
before. -/
def Obligations.WriteReachesStoresOrDrops : Prop :=
  ∀ (s : State) (a : Addr) (v : Byte), s.hostIdle →
    if 0xD010 ≤ a.toNat ∧ a.toNat ≤ 0xD013 then memWrite a v s = s.withPia (s.pia.write a v)
    else if s.writeProtectHighRom = true ∧ 0xFF00 ≤ a.toNat then memWrite a v s = s
    else if s.ramExpansion8k = true ∧ 0x2000 ≤ a.toNat ∧ a.toNat < 0xFF00 then memWrite a v s = s
    else (memWrite a v s).mem.read a = v ∧ (∀ b : Addr, b ≠ a → (memWrite a v s).mem.read b = s.mem.read b) ∧
      (memWrite a v s).withMem s.mem = s

/-- R26, R137 to R144: what the CPU's reads and writes of the four PIA addresses do. That the read of 0xD011 is a plain one
is decision D21 (R139). -/
def Obligations.PiaRegistersThroughTheBus : Prop :=
  ∀ (s : State) (v : Byte), s.hostIdle →
    memRead 0xD010#16 s = (s.pia.kbd, s.withPia { s.pia with kbdcr := 0x27#8 }) ∧
    memWrite 0xD010#16 v s = s.withPia { s.pia with kbd := v } ∧
    memRead 0xD011#16 s = (s.pia.kbdcr, s) ∧
    memWrite 0xD011#16 v s = s.withPia { s.pia with kbdcr := if s.pia.kbdcr.toNat = 0 then 0x27#8 else v } ∧
    memRead 0xD012#16 s = (s.pia.dsp, s) ∧
    memWrite 0xD012#16 v s = s.withPia { s.pia with dsp := if s.pia.dspcr.toNat / 4 % 2 = 1 then v else s.pia.dsp } ∧
    memRead 0xD013#16 s = (s.pia.dspcr, s) ∧
    memWrite 0xD013#16 v s = s.withPia { s.pia with dspcr := v }

/-- R21, C5: no step sees the four cells under the PIA: from two states that differ in those cells only, whatever the host
does, the steps lead to two states that differ in those cells only. -/
def Obligations.CellsUnderThePiaAreInvisible : Prop :=
  ∀ s s' t : State, SameButPiaCells s s' → step s = .next t → ∃ t', step s' = .next t' ∧ SameButPiaCells t t'

/-- R34, R35: the snapshot of what a bulk load stored is what was loaded, under either policy, whatever the write flags;
every other byte is as before. -/
def Obligations.SnapshotReturnsTheLoadedBytes : Prop :=
  ∀ (m : Memory) (policy : LoadPolicy) (bytes : List Byte) (start last : Addr),
    bytes ≠ [] → last.toNat + 1 = start.toNat + bytes.length →
    (Memory.loadImage policy bytes start m).snapshot start last = bytes ∧
    ∀ b : Addr, (b.toNat < start.toNat ∨ last.toNat < b.toNat) →
      (Memory.loadImage policy bytes start m).read b = m.read b

/-- R10, R34: a load past 0xFFFF stores what fits, or nothing, by the policy, and never wraps. -/
def Obligations.OverflowingLoadNeverWraps : Prop :=
  ∀ (m : Memory) (bytes : List Byte) (start : Addr), 65536 < start.toNat + bytes.length →
    Memory.loadImage .reject bytes start m = m ∧
    Memory.loadImage .truncate bytes start m = Memory.loadImage .reject (bytes.take (65536 - start.toNat)) start m ∧
    ∀ b : Addr, b.toNat < start.toNat → (Memory.loadImage .truncate bytes start m).read b = m.read b

/-- R150: a bulk load is its byte stores made one by one, in either policy; only memory changes. -/
def Obligations.BulkLoadIsItsByteStores : Prop :=
  ∀ (s : State) (policy : LoadPolicy) (bytes : List Byte) (start : Addr),
    hostMoves (loadImageMoves policy bytes start) s = s.withMem (Memory.loadImage policy bytes start s.mem)

/-- R15, R16: a push stores at 0x0100 + SP and then decrements SP modulo 256; a pull increments SP and then reads; a pull
after a push gives the byte back and restores SP. -/
def Obligations.PushAndPull : Prop :=
  ∀ (s : State) (v : Byte), s.hostIdle →
    Pushed [v] s (push8 v s) ∧ (push8 v s).sp.toNat = (s.sp.toNat + 255) % 256 ∧
    (stackAddr s.sp).toNat = 0x0100 + s.sp.toNat ∧
    (pull8 s).1 = s.mem.read (stackAddr (pull8 s).2.sp) ∧ (pull8 s).2 = s.withSp (pull8 s).2.sp ∧
    (pull8 s).2.sp.toNat = (s.sp.toNat + 1) % 256 ∧
    (pull8 (push8 v s)).1 = v ∧ (pull8 (push8 v s)).2.sp = s.sp

/-! ## The host -/

/-- R4, R148 to R151: whatever moves the host makes at a byte access, the CPU's registers and the cycle count stay; raising
an interrupt sets its input and nothing else; a control move only waits; the ROM images stay. -/
def Obligations.HostMovesLeaveTheCpu : Prop :=
  (∀ (ms : List HostMove) (s : State),
    RegsKept s (hostMoves ms s) ∧ (hostMoves ms s).p = s.p ∧ (hostMoves ms s).cycles = s.cycles ∧
    (hostMoves ms s).hostTurns = s.hostTurns ∧ (hostMoves ms s).roms = s.roms) ∧
  (∀ (s : State) (level : Bool), hostMove (.raiseIRQ level) s = s.withIrqLine level) ∧
  (∀ s : State, hostMoves [.raiseNMI, .raiseNMI] s = s.withNmiPending true) ∧
  (∀ (s : State) (c : ControlMove), hostMove (.request c) s = s.withPendingControl (s.pendingControl ++ [c])) ∧
  (∀ s : State, s.hostIdle → s.irqLine = false → s.nmiPending = false →
    boundary s = controlMoves s.pendingControl (s.withPendingControl []))

/-- R152, R153: import writes the six registers, bit 5 of P staying 1, and nothing else; export after it gives the snapshot
back with bit 5 set, and changes nothing. -/
def Obligations.ExportAfterImport : Prop :=
  ∀ (s : State) (c : CpuSnapshot),
    exportState (importState c s) = { c with p := c.p ||| 0x20#8 } ∧
    RestKept s (importState c s) ∧ controlMove .exportState s = s ∧
    (s.p.getLsbD 5 = true → importState (exportState s) s = s)

/-- R155: memory reset, from any memory and with any ROM images: zero below 0xE000, the two images in place, 0xF000 to
0xFEFF as before. It reads as the bulk loads of the two images, in either order, over the zeroed memory; machine reset does
it whatever the write flags, and leaves them. -/
def Obligations.MemoryResetInstallsTheRoms : Prop :=
  ∀ (s : State) (policy : LoadPolicy),
    let m := s.mem.reset s.roms
    let loadBasic := Memory.loadImage policy s.roms.basic.toList 0xE000#16
    let loadMonitor := Memory.loadImage policy s.roms.monitor.toList 0xFF00#16
    (∀ b : Addr, b.toNat < 0xE000 → m.read b = 0x00#8) ∧
    (∀ i : Fin 4096, m.read (BitVec.ofNat 16 (0xE000 + i.val)) = s.roms.basic[i]) ∧
    (∀ b : Addr, 0xF000 ≤ b.toNat → b.toNat < 0xFF00 → m.read b = s.mem.read b) ∧
    (∀ i : Fin 256, m.read (BitVec.ofNat 16 (0xFF00 + i.val)) = s.roms.monitor[i]) ∧
    m.snapshot 0xE000#16 0xEFFF#16 = s.roms.basic.toList ∧ m.snapshot 0xFF00#16 0xFFFF#16 = s.roms.monitor.toList ∧
    (∀ z : Memory, (∀ b : Addr, b.toNat < 0xE000 → z.read b = 0x00#8) →
      (∀ b : Addr, 0xF000 ≤ b.toNat → b.toNat < 0xFF00 → z.read b = s.mem.read b) →
      ∀ b : Addr, (loadMonitor (loadBasic z)).read b = m.read b ∧ (loadBasic (loadMonitor z)).read b = m.read b) ∧
    (∀ w e : Bool,
      let t := machineReset ((s.withWriteProtectHighRom w).withRamExpansion8k e)
      t.mem = m ∧ t.writeProtectHighRom = w ∧ t.ramExpansion8k = e)

/-- R145, R154, R155, R157: what machine reset does to every state, whatever ROM images it holds; and R6, R9, R156: a launch
with any two ROM images, from any power-on state, is the machine reset of that state with these images. The order of the
three resets is decision D17. -/
def Obligations.MachineResetEffect : Prop :=
  (∀ s : State,
    (machineReset s).mem = s.mem.reset s.roms ∧
    (machineReset s).pia = { kbd := 0x80#8, kbdcr := 0x00#8, dsp := 0x00#8, dspcr := 0x00#8 } ∧
    (machineReset s).flagI = true ∧ FlagsKept [bitI] s (machineReset s) ∧
    (machineReset s).sp = 0xFF#8 ∧
    (machineReset s).pc.toNat = s.roms.monitor[0xFC].toNat + 256 * s.roms.monitor[0xFD].toNat ∧
    (machineReset s).a = s.a ∧ (machineReset s).x = s.x ∧ (machineReset s).y = s.y ∧
    InputsKept s (machineReset s) ∧
    ∀ b : Addr, (machineReset s).mem.read b =
      if b.toNat < 0xE000 then 0x00#8
      else if b.toNat < 0xF000 then s.roms.basic.toList.getD (b.toNat - 0xE000) 0x00#8
      else if b.toNat < 0xFF00 then s.mem.read b
      else s.roms.monitor.toList.getD (b.toNat - 0xFF00) 0x00#8) ∧
  ∀ (roms : Roms) (powerOn : State),
    launch roms powerOn = machineReset (powerOn.withRoms roms) ∧ (launch roms powerOn).roms = roms ∧
    (launch roms powerOn).pc.toNat = roms.monitor[0xFC].toNat + 256 * roms.monitor[0xFD].toNat

/-- 10_state.md section 8: what `State.reset` holds of what the spec gives, and that a machine reset of it changes nothing
but the cycle count. -/
def Obligations.ResetStateIsAResetState : Prop :=
  State.reset.sp = 0xFF#8 ∧ State.reset.flagI = true ∧ State.reset.readP.getLsbD 5 = true ∧
  State.reset.pia = { kbd := 0x80#8, kbdcr := 0x00#8, dsp := 0x00#8, dspcr := 0x00#8 } ∧
  (∀ b : Addr, b.toNat < 0xE000 → State.reset.mem.read b = 0x00#8) ∧
  State.reset.pc = addrOf (State.reset.mem.read 0xFFFD#16) (State.reset.mem.read 0xFFFC#16) ∧
  State.reset.irqLine = false ∧ State.reset.nmiPending = false ∧
  (machineReset State.reset).withCycles State.reset.cycles = State.reset

/-! ## Addressing -/

/-- R47 to R51, R53, R54: the address each data mode yields, in integers, and that resolving changes nothing but the cycle
count, by one where a read variant crosses a page. -/
def Obligations.ResolverYieldsTheAddress : Prop :=
  ∀ s : State, s.hostIdle →
    let word (z : Nat) : Nat :=
      (s.mem.read (BitVec.ofNat 16 (z % 256))).toNat + 256 * (s.mem.read (BitVec.ofNat 16 ((z + 1) % 256))).toNat
    let yields (m : AddrMode) (a extra : Nat) : Prop :=
      (resolve m s).1.toNat = a ∧ (resolve m s).2 = s.withCycles (s.cycles + extra)
    let penalty (base i : Nat) : Nat := if (base + i) % 65536 / 256 = base / 256 then 0 else 1
    (∀ d : Byte,
      yields (.zp d) d.toNat 0 ∧
      yields (.zpx d) ((d.toNat + s.x.toNat) % 256) 0 ∧ yields (.zpy d) ((d.toNat + s.y.toNat) % 256) 0 ∧
      yields (.indx d) (word (d.toNat + s.x.toNat)) 0 ∧
      yields (.indy d) ((word d.toNat + s.y.toNat) % 65536) (penalty (word d.toNat) s.y.toNat) ∧
      yields (.indyw d) ((word d.toNat + s.y.toNat) % 65536) 0) ∧
    (∀ a : Addr,
      yields (.abs a) a.toNat 0 ∧
      yields (.absx a) ((a.toNat + s.x.toNat) % 65536) (penalty a.toNat s.x.toNat) ∧
      yields (.absy a) ((a.toNat + s.y.toNat) % 65536) (penalty a.toNat s.y.toNat) ∧
      yields (.absxw a) ((a.toNat + s.x.toNat) % 65536) 0 ∧ yields (.absyw a) ((a.toNat + s.y.toNat) % 65536) 0)

/-- R96 and R52 at the default JMP_IND_PAGE_WRAP (the model's choice, log entry 5): JMP goes to its operand, or to the word
at its pointer, whose high byte comes from the same page; reading the pointer has the bus's side effects. -/
def Obligations.JmpGoesToItsTarget : Prop :=
  (∀ b c : Byte, Decodes [0x4C#8, b, c] (.jmp (.abs (addrOf c b))) ∧ Decodes [0x6C#8, b, c] (.jmp (.ind (addrOf c b)))) ∧
  ∀ s : State, s.hostIdle →
    (∀ a : Addr, exec (.jmp (.abs a)) s = .next (s.withPc a)) ∧
    ∀ p q : Addr, q.toNat = p.toNat / 256 * 256 + (p.toNat + 1) % 256 →
      exec (.jmp (.ind p)) s = .next
        ((s.withPia ((s.pia.afterRead p).afterRead q)).withPc
          (addrOf ((s.withPia (s.pia.afterRead p)).peek q) (s.peek p)))

/-! ## Loads and stores -/

/-- R60, R61, R62. -/
def Obligations.LoadsCopyTheOperand : Prop :=
  ReadForms .lda 0xA9#8 0xA5#8 0xB5#8 0xAD#8 0xBD#8 0xB9#8 0xA1#8 0xB1#8 ∧
  (∀ b c : Byte, Decodes [0xA2#8, b] (.ldx (.imm b)) ∧ Decodes [0xA6#8, b] (.ldx (.zp b)) ∧
    Decodes [0xB6#8, b] (.ldx (.zpy b)) ∧ Decodes [0xAE#8, b, c] (.ldx (.abs (addrOf c b))) ∧
    Decodes [0xBE#8, b, c] (.ldx (.absy (addrOf c b)))) ∧
  (∀ b c : Byte, Decodes [0xA0#8, b] (.ldy (.imm b)) ∧ Decodes [0xA4#8, b] (.ldy (.zp b)) ∧
    Decodes [0xB4#8, b] (.ldy (.zpx b)) ∧ Decodes [0xAC#8, b, c] (.ldy (.abs (addrOf c b))) ∧
    Decodes [0xBC#8, b, c] (.ldy (.absx (addrOf c b)))) ∧
  ∀ s : State, s.hostIdle →
    (∀ m : ReadOp, ∃ t, exec (.lda m) s = .next t ∧ t.a = s.sourceByte m.source ∧ NZOf t.a t ∧
      t.x = s.x ∧ t.y = s.y ∧ t.sp = s.sp ∧ t.pc = s.pc ∧ ReadKept [bitZ, bitN] m.source s t) ∧
    (∀ m : LdxOp, ∃ t, exec (.ldx m) s = .next t ∧ t.x = s.sourceByte m.source ∧ NZOf t.x t ∧
      t.a = s.a ∧ t.y = s.y ∧ t.sp = s.sp ∧ t.pc = s.pc ∧ ReadKept [bitZ, bitN] m.source s t) ∧
    (∀ m : LdyOp, ∃ t, exec (.ldy m) s = .next t ∧ t.y = s.sourceByte m.source ∧ NZOf t.y t ∧
      t.a = s.a ∧ t.x = s.x ∧ t.sp = s.sp ∧ t.pc = s.pc ∧ ReadKept [bitZ, bitN] m.source s t)

/-- R63, R64, R65. -/
def Obligations.StoresWriteTheRegister : Prop :=
  (∀ b c : Byte, Decodes [0x85#8, b] (.sta (.zp b)) ∧ Decodes [0x95#8, b] (.sta (.zpx b)) ∧
    Decodes [0x8D#8, b, c] (.sta (.abs (addrOf c b))) ∧ Decodes [0x9D#8, b, c] (.sta (.absxw (addrOf c b))) ∧
    Decodes [0x99#8, b, c] (.sta (.absyw (addrOf c b))) ∧ Decodes [0x81#8, b] (.sta (.indx b)) ∧
    Decodes [0x91#8, b] (.sta (.indyw b)) ∧
    Decodes [0x86#8, b] (.stx (.zp b)) ∧ Decodes [0x96#8, b] (.stx (.zpy b)) ∧
    Decodes [0x8E#8, b, c] (.stx (.abs (addrOf c b))) ∧
    Decodes [0x84#8, b] (.sty (.zp b)) ∧ Decodes [0x94#8, b] (.sty (.zpx b)) ∧
    Decodes [0x8C#8, b, c] (.sty (.abs (addrOf c b)))) ∧
  ∀ s : State, s.hostIdle →
    (∀ m : StaOp, ∃ t, exec (.sta m) s = .next t ∧ Stored (resolve m.mode s).1 s.a s.pia s t ∧
      RegsKept s t ∧ FlagsKept [] s t ∧ t.cycles = s.cycles ∧ InputsKept s t) ∧
    (∀ m : StxOp, ∃ t, exec (.stx m) s = .next t ∧ Stored (resolve m.mode s).1 s.x s.pia s t ∧
      RegsKept s t ∧ FlagsKept [] s t ∧ t.cycles = s.cycles ∧ InputsKept s t) ∧
    (∀ m : StyOp, ∃ t, exec (.sty m) s = .next t ∧ Stored (resolve m.mode s).1 s.y s.pia s t ∧
      RegsKept s t ∧ FlagsKept [] s t ∧ t.cycles = s.cycles ∧ InputsKept s t)

/-! ## Arithmetic and compare -/

/-- R66, R67, R68: ADC in both modes, in integers. Binary: A is the sum modulo 256, C its carry, V that the signed sum does
not fit, N and Z from the result. Decimal: digit by digit, N and V from the sum whose high digit is not yet corrected, Z
from the binary sum. -/
def Obligations.AdcAddsInBothModes : Prop :=
  ReadForms .adc 0x69#8 0x65#8 0x75#8 0x6D#8 0x7D#8 0x79#8 0x61#8 0x71#8 ∧
  ∀ (s : State) (m : ReadOp), s.hostIdle →
    ∃ t, exec (.adc m) s = .next t ∧
      t.x = s.x ∧ t.y = s.y ∧ t.sp = s.sp ∧ t.pc = s.pc ∧ ReadKept [bitN, bitV, bitZ, bitC] m.source s t ∧
      let v := s.sourceByte m.source
      let c := s.flagC.toNat
      let sum := s.a.toNat + v.toNat + c
      let signed := s.a.toInt + v.toInt + c
      if s.flagD = false then
        t.a.toNat = sum % 256 ∧ t.flagC = decide (255 < sum) ∧ NZOf t.a t ∧
        t.flagV = decide (signed < -128 ∨ 127 < signed)
      else
        let low := s.a.toNat % 16 + v.toNat % 16 + c
        let al := if 10 ≤ low then (low + 6) % 16 + 16 else low
        let half := s.a.toNat / 16 * 16 + v.toNat / 16 * 16 + al
        let full := if 0xA0 ≤ half then half + 0x60 else half
        t.a.toNat = full % 256 ∧ t.flagC = decide (0x100 ≤ full) ∧ t.flagZ = decide (sum % 256 = 0) ∧
        t.flagN = half.testBit 7 ∧
        t.flagV = decide (s.a.toNat / 128 = v.toNat / 128 ∧ s.a.toNat / 128 ≠ half / 128 % 2)

/-- R68, corner cases: on operands that are valid BCD, A and C of a decimal ADC are the true decimal sum and its carry. -/
def Obligations.DecimalAdcIsDecimalAddition : Prop :=
  ∀ (s : State) (m : ReadOp) (a1 a0 v1 v0 : Nat), s.hostIdle → s.flagD = true →
    a1 < 10 → a0 < 10 → v1 < 10 → v0 < 10 →
    s.a.toNat = 16 * a1 + a0 → (s.sourceByte m.source).toNat = 16 * v1 + v0 →
    ∃ t, exec (.adc m) s = .next t ∧
      let sum := (10 * a1 + a0) + (10 * v1 + v0) + s.flagC.toNat
      t.a.toNat = 16 * (sum % 100 / 10) + sum % 10 ∧ t.flagC = decide (100 ≤ sum)

/-- R69, R70, R71: SBC in both modes, in integers. All four flags are those of the binary difference in both modes; only A
differs. -/
def Obligations.SbcSubtractsInBothModes : Prop :=
  ReadForms .sbc 0xE9#8 0xE5#8 0xF5#8 0xED#8 0xFD#8 0xF9#8 0xE1#8 0xF1#8 ∧
  ∀ (s : State) (m : ReadOp), s.hostIdle →
    ∃ t, exec (.sbc m) s = .next t ∧
      t.x = s.x ∧ t.y = s.y ∧ t.sp = s.sp ∧ t.pc = s.pc ∧ ReadKept [bitN, bitV, bitZ, bitC] m.source s t ∧
      let v := s.sourceByte m.source
      let b : Int := 1 - s.flagC.toNat
      let diff : Int := s.a.toNat - v.toNat - b
      let signed := s.a.toInt - v.toInt - b
      t.flagC = decide (0 ≤ diff) ∧ t.flagV = decide (signed < -128 ∨ 127 < signed) ∧
      t.flagZ = decide (diff % 256 = 0) ∧ t.flagN = decide (128 ≤ diff % 256) ∧
      if s.flagD = false then (t.a.toNat : Int) = diff % 256
      else
        let low : Int := (s.a.toNat % 16 : Nat) - (v.toNat % 16 : Nat) - b
        let al : Int := if low < 0 then (low - 6) % 16 - 16 else low
        let half : Int := (s.a.toNat / 16 * 16 : Nat) - (v.toNat / 16 * 16 : Nat) + al
        (t.a.toNat : Int) = (if half < 0 then half - 0x60 else half) % 256

/-- R71, corner cases: on operands that are valid BCD, A and C of a decimal SBC are the true decimal difference and its
no-borrow. -/
def Obligations.DecimalSbcIsDecimalSubtraction : Prop :=
  ∀ (s : State) (m : ReadOp) (a1 a0 v1 v0 : Nat), s.hostIdle → s.flagD = true →
    a1 < 10 → a0 < 10 → v1 < 10 → v0 < 10 →
    s.a.toNat = 16 * a1 + a0 → (s.sourceByte m.source).toNat = 16 * v1 + v0 →
    ∃ t, exec (.sbc m) s = .next t ∧
      let diff : Int := (10 * a1 + a0 : Nat) - (10 * v1 + v0 : Nat) - (1 - s.flagC.toNat)
      (t.a.toNat : Int) = 16 * (diff % 100 / 10) + diff % 10 ∧ t.flagC = decide (0 ≤ diff)

/-- R70: in binary mode SBC of a byte is ADC of its one's complement. -/
def Obligations.BinarySbcIsAdcOfTheComplement : Prop :=
  ∀ (s : State) (v : Byte), s.flagD = false →
    exec (.sbc (.imm v)) s = exec (.adc (.imm (v ^^^ 0xFF#8))) s

/-- R72, R73, R74. -/
def Obligations.ComparesSetNZC : Prop :=
  ReadForms .cmp 0xC9#8 0xC5#8 0xD5#8 0xCD#8 0xDD#8 0xD9#8 0xC1#8 0xD1#8 ∧
  IndexCmpForms .cpx 0xE0#8 0xE4#8 0xEC#8 ∧ IndexCmpForms .cpy 0xC0#8 0xC4#8 0xCC#8 ∧
  let compared (r v : Byte) (t : State) : Prop :=
    t.flagC = decide (v.toNat ≤ r.toNat) ∧ t.flagZ = decide (r = v) ∧
    t.flagN = decide (128 ≤ ((r.toNat : Int) - v.toNat) % 256)
  ∀ s : State, s.hostIdle →
    (∀ m : ReadOp, ∃ t, exec (.cmp m) s = .next t ∧ compared s.a (s.sourceByte m.source) t ∧
      RegsKept s t ∧ ReadKept [bitN, bitZ, bitC] m.source s t) ∧
    (∀ m : IndexCmpOp, ∃ t, exec (.cpx m) s = .next t ∧ compared s.x (s.sourceByte m.source) t ∧
      RegsKept s t ∧ ReadKept [bitN, bitZ, bitC] m.source s t) ∧
    (∀ m : IndexCmpOp, ∃ t, exec (.cpy m) s = .next t ∧ compared s.y (s.sourceByte m.source) t ∧
      RegsKept s t ∧ ReadKept [bitN, bitZ, bitC] m.source s t)

/-! ## Logic, shifts, increments, BIT -/

/-- R76, R77, R78. -/
def Obligations.LogicCombinesIntoA : Prop :=
  ReadForms .and 0x29#8 0x25#8 0x35#8 0x2D#8 0x3D#8 0x39#8 0x21#8 0x31#8 ∧
  ReadForms .ora 0x09#8 0x05#8 0x15#8 0x0D#8 0x1D#8 0x19#8 0x01#8 0x11#8 ∧
  ReadForms .eor 0x49#8 0x45#8 0x55#8 0x4D#8 0x5D#8 0x59#8 0x41#8 0x51#8 ∧
  ∀ (s : State) (m : ReadOp), s.hostIdle →
    let combined (i : Instr) (r : Byte) : Prop :=
      ∃ t, exec i s = .next t ∧ t.a = r ∧ NZOf r t ∧ t.x = s.x ∧ t.y = s.y ∧ t.sp = s.sp ∧ t.pc = s.pc ∧
        ReadKept [bitZ, bitN] m.source s t
    combined (.and m) (s.a &&& s.sourceByte m.source) ∧ combined (.ora m) (s.a ||| s.sourceByte m.source) ∧
    combined (.eor m) (s.a ^^^ s.sourceByte m.source)

/-- R79 to R82: the four shifts in both places, in integers; the memory forms read `EA` once and write it once, and set
their flags from the result even where the write is dropped. -/
def Obligations.ShiftsMoveOneBit : Prop :=
  ShiftForms .asl 0x0A#8 0x06#8 0x16#8 0x0E#8 0x1E#8 ∧ ShiftForms .lsr 0x4A#8 0x46#8 0x56#8 0x4E#8 0x5E#8 ∧
  ShiftForms .rol 0x2A#8 0x26#8 0x36#8 0x2E#8 0x3E#8 ∧ ShiftForms .ror 0x6A#8 0x66#8 0x76#8 0x6E#8 0x7E#8 ∧
  ∀ (s : State) (m : ShiftOp), s.hostIdle →
    let c := s.flagC.toNat
    let shifted (i : Instr) (r : Nat → Nat) (out : Nat → Bool) : Prop :=
      ∃ t, exec i s = .next t ∧ t.x = s.x ∧ t.y = s.y ∧ t.sp = s.sp ∧ t.pc = s.pc ∧ t.cycles = s.cycles ∧
        InputsKept s t ∧ FlagsKept [bitC, bitZ, bitN] s t ∧
        match m.place with
        | .acc =>
          t.a.toNat = r s.a.toNat ∧ t.flagC = out s.a.toNat ∧ NZOf t.a t ∧ MemoryKept s t ∧ t.pia = s.pia
        | .mem mode =>
          let ea := (resolve mode s).1
          ∃ w : Byte, w.toNat = r (s.peek ea).toNat ∧ t.flagC = out (s.peek ea).toNat ∧ NZOf w t ∧ t.a = s.a ∧
            Stored ea w (s.pia.afterRead ea) s t
    shifted (.asl m) (fun v => v * 2 % 256) (fun v => decide (128 ≤ v)) ∧
    shifted (.lsr m) (fun v => v / 2) (fun v => decide (v % 2 = 1)) ∧
    shifted (.rol m) (fun v => v * 2 % 256 + c) (fun v => decide (128 ≤ v)) ∧
    shifted (.ror m) (fun v => v / 2 + 128 * c) (fun v => decide (v % 2 = 1))

/-- R83, R84. -/
def Obligations.IncAndDecModifyMemory : Prop :=
  IncForms .inc 0xE6#8 0xF6#8 0xEE#8 0xFE#8 ∧ IncForms .dec 0xC6#8 0xD6#8 0xCE#8 0xDE#8 ∧
  ∀ (s : State) (m : IncOp), s.hostIdle →
    let ea := (resolve m.mode s).1
    let modified (i : Instr) (r : Nat → Nat) : Prop :=
      ∃ (t : State) (w : Byte), exec i s = .next t ∧ w.toNat = r (s.peek ea).toNat ∧ NZOf w t ∧
        Stored ea w (s.pia.afterRead ea) s t ∧
        RegsKept s t ∧ FlagsKept [bitZ, bitN] s t ∧ t.cycles = s.cycles ∧ InputsKept s t
    modified (.inc m) (fun v => (v + 1) % 256) ∧ modified (.dec m) (fun v => (v + 255) % 256)

/-- R85 to R88. -/
def Obligations.IndexRegistersCount : Prop :=
  Decodes [0xE8#8] .inx ∧ Decodes [0xC8#8] .iny ∧ Decodes [0xCA#8] .dex ∧ Decodes [0x88#8] .dey ∧
  ∀ s : State,
    let kept (t : State) : Prop :=
      t.a = s.a ∧ t.sp = s.sp ∧ t.pc = s.pc ∧ FlagsKept [bitZ, bitN] s t ∧ RestKept s t
    (∃ t, exec .inx s = .next t ∧ t.x.toNat = (s.x.toNat + 1) % 256 ∧ NZOf t.x t ∧ t.y = s.y ∧ kept t) ∧
    (∃ t, exec .iny s = .next t ∧ t.y.toNat = (s.y.toNat + 1) % 256 ∧ NZOf t.y t ∧ t.x = s.x ∧ kept t) ∧
    (∃ t, exec .dex s = .next t ∧ t.x.toNat = (s.x.toNat + 255) % 256 ∧ NZOf t.x t ∧ t.y = s.y ∧ kept t) ∧
    (∃ t, exec .dey s = .next t ∧ t.y.toNat = (s.y.toNat + 255) % 256 ∧ NZOf t.y t ∧ t.x = s.x ∧ kept t)

/-- R89. -/
def Obligations.BitTestsMemory : Prop :=
  (∀ b c : Byte, Decodes [0x24#8, b] (.bit (.zp b)) ∧ Decodes [0x2C#8, b, c] (.bit (.abs (addrOf c b)))) ∧
  ∀ (s : State) (m : BitOp), s.hostIdle →
    let v := s.sourceByte (.mem m.mode)
    ∃ t, exec (.bit m) s = .next t ∧ t.flagZ = decide (s.a &&& v = 0x00#8) ∧ t.flagN = v.toNat.testBit 7 ∧
      t.flagV = v.toNat.testBit 6 ∧ RegsKept s t ∧ ReadKept [bitZ, bitN, bitV] (.mem m.mode) s t

/-! ## Stack and system -/

/-- R90, R91: the pushed copy of P has bits 4 and 5 set; the stored P is unchanged. -/
def Obligations.PhaAndPhpPush : Prop :=
  Decodes [0x48#8] .pha ∧ Decodes [0x08#8] .php ∧
  ∀ s : State, s.hostIdle →
    let kept (t : State) : Prop :=
      t.a = s.a ∧ t.x = s.x ∧ t.y = s.y ∧ t.pc = s.pc ∧ t.p = s.p ∧ t.pia = s.pia ∧ t.cycles = s.cycles ∧ InputsKept s t
    (∃ t, exec .pha s = .next t ∧ Pushed [s.a] s t ∧ kept t) ∧
    (∃ t, exec .php s = .next t ∧ Pushed [s.p ||| 0x30#8] s t ∧ kept t)

/-- R92, R93: PLA sets N and Z; PLP loads every flag, bit 5 staying 1. -/
def Obligations.PlaAndPlpPull : Prop :=
  Decodes [0x68#8] .pla ∧ Decodes [0x28#8] .plp ∧
  ∀ s : State, s.hostIdle →
    (∃ t, exec .pla s = .next t ∧ t.a = s.stackByte 1#8 ∧ NZOf t.a t ∧ t.sp.toNat = (s.sp.toNat + 1) % 256 ∧
      t.x = s.x ∧ t.y = s.y ∧ t.pc = s.pc ∧ FlagsKept [bitZ, bitN] s t ∧ RestKept s t) ∧
    (∃ t, exec .plp s = .next t ∧ t.p = s.stackByte 1#8 ||| 0x20#8 ∧ t.sp.toNat = (s.sp.toNat + 1) % 256 ∧
      t.a = s.a ∧ t.x = s.x ∧ t.y = s.y ∧ t.pc = s.pc ∧ RestKept s t)

/-- R94, R56: BRK pushes PC, which is the address of its opcode + 2, high byte first, then the status with B and bit 5 set
and I as it was; it sets B and I and goes through 0xFFFE. -/
def Obligations.BrkTakesTheException : Prop :=
  (∀ pad : Byte, Decodes [0x00#8, pad] .brk) ∧ Instr.fetchLength .brk = 2 ∧
  ∀ s : State, s.hostIdle →
    ∃ t, exec .brk s = .next t ∧ Pushed [hi8 s.pc, lo8 s.pc, s.p ||| 0x30#8] s t ∧
      t.flagB = true ∧ t.flagI = true ∧ FlagsKept [bitB, bitI] s t ∧
      t.pc = addrOf (s.mem.read 0xFFFF#16) (s.mem.read 0xFFFE#16) ∧
      t.a = s.a ∧ t.x = s.x ∧ t.y = s.y ∧ t.pia = s.pia ∧ t.cycles = s.cycles ∧ InputsKept s t

/-- R95: RTI pulls the status, then PC low, then PC high, without increment. -/
def Obligations.RtiPullsStatusAndPc : Prop :=
  Decodes [0x40#8] .rti ∧
  ∀ s : State, s.hostIdle →
    ∃ t, exec .rti s = .next t ∧ t.p = s.stackByte 1#8 ||| 0x20#8 ∧
      t.pc = addrOf (s.stackByte 3#8) (s.stackByte 2#8) ∧ t.sp.toNat = (s.sp.toNat + 3) % 256 ∧
      t.a = s.a ∧ t.x = s.x ∧ t.y = s.y ∧ RestKept s t

/-! ## Jumps and branches -/

/-- R97: JSR pushes the address of its own last byte, high byte first, and goes to its operand. -/
def Obligations.JsrPushesTheReturnAddress : Prop :=
  (∀ b c : Byte, Decodes [0x20#8, b, c] (.jsr (addrOf c b))) ∧
  ∀ (s : State) (a : Addr), s.hostIdle →
    ∃ t, exec (.jsr a) s = .next t ∧
      Pushed [BitVec.ofNat 8 ((s.pc.toNat + 65535) % 65536 / 256), BitVec.ofNat 8 ((s.pc.toNat + 65535) % 256)] s t ∧
      t.pc = a ∧ t.a = s.a ∧ t.x = s.x ∧ t.y = s.y ∧ t.p = s.p ∧ t.pia = s.pia ∧ t.cycles = s.cycles ∧ InputsKept s t

/-- R98: RTS pulls PC, low byte first, and adds one. -/
def Obligations.RtsReturnsPastTheAddress : Prop :=
  Decodes [0x60#8] .rts ∧
  ∀ s : State, s.hostIdle →
    ∃ t, exec .rts s = .next t ∧
      t.pc.toNat = ((s.stackByte 2#8).toNat * 256 + (s.stackByte 1#8).toNat + 1) % 65536 ∧
      t.sp.toNat = (s.sp.toNat + 2) % 256 ∧ t.a = s.a ∧ t.x = s.x ∧ t.y = s.y ∧ t.p = s.p ∧ RestKept s t

/-- R97, R98: RTS after JSR goes on at the instruction after the JSR with SP restored. -/
def Obligations.RtsUndoesJsr : Prop :=
  ∀ (s : State) (a : Addr), s.hostIdle →
    ∃ t u, exec (.jsr a) s = .next t ∧ exec .rts t = .next u ∧ u.pc = s.pc ∧ u.sp = s.sp

/-- R55, R99 to R107: what each branch tests, where it goes, what it charges, and that it touches nothing else, whatever
the host does. -/
def Obligations.BranchesTestOneFlag : Prop :=
  (∀ d : Byte, Decodes [0x10#8, d] (.bpl d) ∧ Decodes [0x30#8, d] (.bmi d) ∧ Decodes [0x50#8, d] (.bvc d) ∧
    Decodes [0x70#8, d] (.bvs d) ∧ Decodes [0x90#8, d] (.bcc d) ∧ Decodes [0xB0#8, d] (.bcs d) ∧
    Decodes [0xD0#8, d] (.bne d) ∧ Decodes [0xF0#8, d] (.beq d)) ∧
  ∀ (s : State) (d : Byte),
    (∃ t, exec (.bpl d) s = .next t ∧ Branched (!s.flagN) d s t) ∧ (∃ t, exec (.bmi d) s = .next t ∧ Branched s.flagN d s t) ∧
    (∃ t, exec (.bvc d) s = .next t ∧ Branched (!s.flagV) d s t) ∧ (∃ t, exec (.bvs d) s = .next t ∧ Branched s.flagV d s t) ∧
    (∃ t, exec (.bcc d) s = .next t ∧ Branched (!s.flagC) d s t) ∧ (∃ t, exec (.bcs d) s = .next t ∧ Branched s.flagC d s t) ∧
    (∃ t, exec (.bne d) s = .next t ∧ Branched (!s.flagZ) d s t) ∧ (∃ t, exec (.beq d) s = .next t ∧ Branched s.flagZ d s t)

/-! ## Transfers, flag instructions, NOP, undocumented opcodes -/

/-- R108 to R113: each transfer copies its source; all but TXS set N and Z. -/
def Obligations.TransfersCopyARegister : Prop :=
  Decodes [0xAA#8] .tax ∧ Decodes [0x8A#8] .txa ∧ Decodes [0xA8#8] .tay ∧ Decodes [0x98#8] .tya ∧
  Decodes [0x9A#8] .txs ∧ Decodes [0xBA#8] .tsx ∧
  ∀ s : State,
    let regs (t : State) (a x y sp : Byte) : Prop :=
      t.a = a ∧ t.x = x ∧ t.y = y ∧ t.sp = sp ∧ t.pc = s.pc ∧ RestKept s t
    let flagged (t : State) (v : Byte) : Prop := NZOf v t ∧ FlagsKept [bitZ, bitN] s t
    (∃ t, exec .tax s = .next t ∧ regs t s.a s.a s.y s.sp ∧ flagged t s.a) ∧
    (∃ t, exec .txa s = .next t ∧ regs t s.x s.x s.y s.sp ∧ flagged t s.x) ∧
    (∃ t, exec .tay s = .next t ∧ regs t s.a s.x s.a s.sp ∧ flagged t s.a) ∧
    (∃ t, exec .tya s = .next t ∧ regs t s.y s.x s.y s.sp ∧ flagged t s.y) ∧
    (∃ t, exec .txs s = .next t ∧ regs t s.a s.x s.y s.x ∧ FlagsKept [] s t) ∧
    (∃ t, exec .tsx s = .next t ∧ regs t s.a s.sp s.y s.sp ∧ flagged t s.sp)

/-- R114 to R120: each writes one bit of P and nothing else. -/
def Obligations.FlagInstructionsWriteOneBit : Prop :=
  Decodes [0x18#8] .clc ∧ Decodes [0x38#8] .sec ∧ Decodes [0x58#8] .cli ∧ Decodes [0x78#8] .sei ∧
  Decodes [0xB8#8] .clv ∧ Decodes [0xD8#8] .cld ∧ Decodes [0xF8#8] .sed ∧
  ∀ s : State,
    let writes (i : Instr) (k : Nat) (b : Bool) : Prop :=
      ∃ t, exec i s = .next t ∧ t.p.toNat.testBit k = b ∧ FlagsKept [k] s t ∧ RegsKept s t ∧ RestKept s t
    writes .clc 0 false ∧ writes .sec 0 true ∧ writes .cli 2 false ∧ writes .sei 2 true ∧
    writes .clv 6 false ∧ writes .cld 3 false ∧ writes .sed 3 true

/-- R121, R123 to R126: NOP and the undocumented classes move PC at most, whatever byte of the class it is. -/
def Obligations.NoOperationsMovePcOnly : Prop :=
  Decodes [0xEA#8] .nop ∧
  ∀ (s : State) (op : Byte),
    exec .nop s = .next s ∧ exec (.unop1 op) s = .next s ∧
    (∃ t, exec (.unop2 op) s = .next t ∧ t.pc.toNat = (s.pc.toNat + 1) % 65536 ∧ t.withPc s.pc = s) ∧
    (∃ t, exec (.unop3 op) s = .next t ∧ t.pc.toNat = (s.pc.toNat + 2) % 65536 ∧ t.withPc s.pc = s) ∧
    (∃ t, exec (.uhang op) s = .next t ∧ t.pc.toNat = (s.pc.toNat + 65535) % 65536 ∧ t.withPc s.pc = s)

/-! ## Rules over all instructions -/

/-- R5, R23, R128: no instruction writes a write flag or an interrupt input, and none asks for a control move; and no step
at all, whatever the host does, changes the ROM images (R6). -/
def Obligations.NoInstructionWritesTheInputs : Prop :=
  (∀ (i : Instr) (s t : State), s.hostIdle → exec i s = .next t → InputsKept s t) ∧
  ∀ s t : State, step s = .next t → t.roms = s.roms

/-- R20: which instructions can write each flag, whatever the host does. -/
def Obligations.FlagWriters : Prop :=
  ∀ (i : Instr) (s t : State), exec i s = .next t → i ≠ .plp → i ≠ .rti →
    (i ≠ .sed → i ≠ .cld → t.flagD = s.flagD) ∧
    (i ≠ .sei → i ≠ .cli → i ≠ .brk → t.flagI = s.flagI) ∧
    (i ≠ .brk → t.flagB = s.flagB) ∧
    (i ≠ .clv → (∀ m, i ≠ .adc m ∧ i ≠ .sbc m) → (∀ m, i ≠ .bit m) → t.flagV = s.flagV) ∧
    (i ≠ .sec → i ≠ .clc → (∀ m, i ≠ .adc m ∧ i ≠ .sbc m ∧ i ≠ .cmp m) → (∀ m, i ≠ .cpx m ∧ i ≠ .cpy m) →
      (∀ m, i ≠ .asl m ∧ i ≠ .lsr m ∧ i ≠ .rol m ∧ i ≠ .ror m) → t.flagC = s.flagC)

/-- 10_state.md section 3: which instructions can write each register, whatever the host does. -/
def Obligations.RegisterWriters : Prop :=
  ∀ (i : Instr) (s t : State), exec i s = .next t →
    ((∀ m, i ≠ .lda m ∧ i ≠ .adc m ∧ i ≠ .sbc m ∧ i ≠ .and m ∧ i ≠ .ora m ∧ i ≠ .eor m) →
      i ≠ .asl .acc → i ≠ .lsr .acc → i ≠ .rol .acc → i ≠ .ror .acc → i ≠ .pla → i ≠ .txa → i ≠ .tya → t.a = s.a) ∧
    ((∀ m, i ≠ .ldx m) → i ≠ .inx → i ≠ .dex → i ≠ .tax → i ≠ .tsx → t.x = s.x) ∧
    ((∀ m, i ≠ .ldy m) → i ≠ .iny → i ≠ .dey → i ≠ .tay → t.y = s.y) ∧
    (i ≠ .pha → i ≠ .php → i ≠ .pla → i ≠ .plp → i ≠ .brk → i ≠ .rti → (∀ a, i ≠ .jsr a) → i ≠ .rts → i ≠ .txs →
      t.sp = s.sp)
end

