-- ==== Sys2Proof/Laws/State.lean ====
section
/-! SUPPORT. One lemma per field per update of the state, so that no later proof unfolds a record update. -/

namespace Sys2Proof.Machine

/-! `withA` writes `a` and nothing else. -/
@[simp] theorem State.withA_a (v : Byte) (s : State) : (s.withA v).a = v := rfl
@[simp] theorem State.withA_x (v : Byte) (s : State) : (s.withA v).x = s.x := rfl
@[simp] theorem State.withA_y (v : Byte) (s : State) : (s.withA v).y = s.y := rfl
@[simp] theorem State.withA_sp (v : Byte) (s : State) : (s.withA v).sp = s.sp := rfl
@[simp] theorem State.withA_pc (v : Byte) (s : State) : (s.withA v).pc = s.pc := rfl
@[simp] theorem State.withA_p (v : Byte) (s : State) : (s.withA v).p = s.p := rfl
@[simp] theorem State.withA_mem (v : Byte) (s : State) : (s.withA v).mem = s.mem := rfl
@[simp] theorem State.withA_writeProtectHighRom (v : Byte) (s : State) : (s.withA v).writeProtectHighRom = s.writeProtectHighRom := rfl
@[simp] theorem State.withA_ramExpansion8k (v : Byte) (s : State) : (s.withA v).ramExpansion8k = s.ramExpansion8k := rfl
@[simp] theorem State.withA_roms (v : Byte) (s : State) : (s.withA v).roms = s.roms := rfl
@[simp] theorem State.withA_pia (v : Byte) (s : State) : (s.withA v).pia = s.pia := rfl
@[simp] theorem State.withA_irqLine (v : Byte) (s : State) : (s.withA v).irqLine = s.irqLine := rfl
@[simp] theorem State.withA_nmiPending (v : Byte) (s : State) : (s.withA v).nmiPending = s.nmiPending := rfl
@[simp] theorem State.withA_cycles (v : Byte) (s : State) : (s.withA v).cycles = s.cycles := rfl
@[simp] theorem State.withA_pendingControl (v : Byte) (s : State) : (s.withA v).pendingControl = s.pendingControl := rfl
@[simp] theorem State.withA_hostTurns (v : Byte) (s : State) : (s.withA v).hostTurns = s.hostTurns := rfl

/-! `withX` writes `x` and nothing else. -/
@[simp] theorem State.withX_a (v : Byte) (s : State) : (s.withX v).a = s.a := rfl
@[simp] theorem State.withX_x (v : Byte) (s : State) : (s.withX v).x = v := rfl
@[simp] theorem State.withX_y (v : Byte) (s : State) : (s.withX v).y = s.y := rfl
@[simp] theorem State.withX_sp (v : Byte) (s : State) : (s.withX v).sp = s.sp := rfl
@[simp] theorem State.withX_pc (v : Byte) (s : State) : (s.withX v).pc = s.pc := rfl
@[simp] theorem State.withX_p (v : Byte) (s : State) : (s.withX v).p = s.p := rfl
@[simp] theorem State.withX_mem (v : Byte) (s : State) : (s.withX v).mem = s.mem := rfl
@[simp] theorem State.withX_writeProtectHighRom (v : Byte) (s : State) : (s.withX v).writeProtectHighRom = s.writeProtectHighRom := rfl
@[simp] theorem State.withX_ramExpansion8k (v : Byte) (s : State) : (s.withX v).ramExpansion8k = s.ramExpansion8k := rfl
@[simp] theorem State.withX_roms (v : Byte) (s : State) : (s.withX v).roms = s.roms := rfl
@[simp] theorem State.withX_pia (v : Byte) (s : State) : (s.withX v).pia = s.pia := rfl
@[simp] theorem State.withX_irqLine (v : Byte) (s : State) : (s.withX v).irqLine = s.irqLine := rfl
@[simp] theorem State.withX_nmiPending (v : Byte) (s : State) : (s.withX v).nmiPending = s.nmiPending := rfl
@[simp] theorem State.withX_cycles (v : Byte) (s : State) : (s.withX v).cycles = s.cycles := rfl
@[simp] theorem State.withX_pendingControl (v : Byte) (s : State) : (s.withX v).pendingControl = s.pendingControl := rfl
@[simp] theorem State.withX_hostTurns (v : Byte) (s : State) : (s.withX v).hostTurns = s.hostTurns := rfl

/-! `withY` writes `y` and nothing else. -/
@[simp] theorem State.withY_a (v : Byte) (s : State) : (s.withY v).a = s.a := rfl
@[simp] theorem State.withY_x (v : Byte) (s : State) : (s.withY v).x = s.x := rfl
@[simp] theorem State.withY_y (v : Byte) (s : State) : (s.withY v).y = v := rfl
@[simp] theorem State.withY_sp (v : Byte) (s : State) : (s.withY v).sp = s.sp := rfl
@[simp] theorem State.withY_pc (v : Byte) (s : State) : (s.withY v).pc = s.pc := rfl
@[simp] theorem State.withY_p (v : Byte) (s : State) : (s.withY v).p = s.p := rfl
@[simp] theorem State.withY_mem (v : Byte) (s : State) : (s.withY v).mem = s.mem := rfl
@[simp] theorem State.withY_writeProtectHighRom (v : Byte) (s : State) : (s.withY v).writeProtectHighRom = s.writeProtectHighRom := rfl
@[simp] theorem State.withY_ramExpansion8k (v : Byte) (s : State) : (s.withY v).ramExpansion8k = s.ramExpansion8k := rfl
@[simp] theorem State.withY_roms (v : Byte) (s : State) : (s.withY v).roms = s.roms := rfl
@[simp] theorem State.withY_pia (v : Byte) (s : State) : (s.withY v).pia = s.pia := rfl
@[simp] theorem State.withY_irqLine (v : Byte) (s : State) : (s.withY v).irqLine = s.irqLine := rfl
@[simp] theorem State.withY_nmiPending (v : Byte) (s : State) : (s.withY v).nmiPending = s.nmiPending := rfl
@[simp] theorem State.withY_cycles (v : Byte) (s : State) : (s.withY v).cycles = s.cycles := rfl
@[simp] theorem State.withY_pendingControl (v : Byte) (s : State) : (s.withY v).pendingControl = s.pendingControl := rfl
@[simp] theorem State.withY_hostTurns (v : Byte) (s : State) : (s.withY v).hostTurns = s.hostTurns := rfl

/-! `withSp` writes `sp` and nothing else. -/
@[simp] theorem State.withSp_a (v : Byte) (s : State) : (s.withSp v).a = s.a := rfl
@[simp] theorem State.withSp_x (v : Byte) (s : State) : (s.withSp v).x = s.x := rfl
@[simp] theorem State.withSp_y (v : Byte) (s : State) : (s.withSp v).y = s.y := rfl
@[simp] theorem State.withSp_sp (v : Byte) (s : State) : (s.withSp v).sp = v := rfl
@[simp] theorem State.withSp_pc (v : Byte) (s : State) : (s.withSp v).pc = s.pc := rfl
@[simp] theorem State.withSp_p (v : Byte) (s : State) : (s.withSp v).p = s.p := rfl
@[simp] theorem State.withSp_mem (v : Byte) (s : State) : (s.withSp v).mem = s.mem := rfl
@[simp] theorem State.withSp_writeProtectHighRom (v : Byte) (s : State) : (s.withSp v).writeProtectHighRom = s.writeProtectHighRom := rfl
@[simp] theorem State.withSp_ramExpansion8k (v : Byte) (s : State) : (s.withSp v).ramExpansion8k = s.ramExpansion8k := rfl
@[simp] theorem State.withSp_roms (v : Byte) (s : State) : (s.withSp v).roms = s.roms := rfl
@[simp] theorem State.withSp_pia (v : Byte) (s : State) : (s.withSp v).pia = s.pia := rfl
@[simp] theorem State.withSp_irqLine (v : Byte) (s : State) : (s.withSp v).irqLine = s.irqLine := rfl
@[simp] theorem State.withSp_nmiPending (v : Byte) (s : State) : (s.withSp v).nmiPending = s.nmiPending := rfl
@[simp] theorem State.withSp_cycles (v : Byte) (s : State) : (s.withSp v).cycles = s.cycles := rfl
@[simp] theorem State.withSp_pendingControl (v : Byte) (s : State) : (s.withSp v).pendingControl = s.pendingControl := rfl
@[simp] theorem State.withSp_hostTurns (v : Byte) (s : State) : (s.withSp v).hostTurns = s.hostTurns := rfl

/-! `withPc` writes `pc` and nothing else. -/
@[simp] theorem State.withPc_a (v : Addr) (s : State) : (s.withPc v).a = s.a := rfl
@[simp] theorem State.withPc_x (v : Addr) (s : State) : (s.withPc v).x = s.x := rfl
@[simp] theorem State.withPc_y (v : Addr) (s : State) : (s.withPc v).y = s.y := rfl
@[simp] theorem State.withPc_sp (v : Addr) (s : State) : (s.withPc v).sp = s.sp := rfl
@[simp] theorem State.withPc_pc (v : Addr) (s : State) : (s.withPc v).pc = v := rfl
@[simp] theorem State.withPc_p (v : Addr) (s : State) : (s.withPc v).p = s.p := rfl
@[simp] theorem State.withPc_mem (v : Addr) (s : State) : (s.withPc v).mem = s.mem := rfl
@[simp] theorem State.withPc_writeProtectHighRom (v : Addr) (s : State) : (s.withPc v).writeProtectHighRom = s.writeProtectHighRom := rfl
@[simp] theorem State.withPc_ramExpansion8k (v : Addr) (s : State) : (s.withPc v).ramExpansion8k = s.ramExpansion8k := rfl
@[simp] theorem State.withPc_roms (v : Addr) (s : State) : (s.withPc v).roms = s.roms := rfl
@[simp] theorem State.withPc_pia (v : Addr) (s : State) : (s.withPc v).pia = s.pia := rfl
@[simp] theorem State.withPc_irqLine (v : Addr) (s : State) : (s.withPc v).irqLine = s.irqLine := rfl
@[simp] theorem State.withPc_nmiPending (v : Addr) (s : State) : (s.withPc v).nmiPending = s.nmiPending := rfl
@[simp] theorem State.withPc_cycles (v : Addr) (s : State) : (s.withPc v).cycles = s.cycles := rfl
@[simp] theorem State.withPc_pendingControl (v : Addr) (s : State) : (s.withPc v).pendingControl = s.pendingControl := rfl
@[simp] theorem State.withPc_hostTurns (v : Addr) (s : State) : (s.withPc v).hostTurns = s.hostTurns := rfl

/-! `withP` writes `p` and nothing else. -/
@[simp] theorem State.withP_a (v : Byte) (s : State) : (s.withP v).a = s.a := rfl
@[simp] theorem State.withP_x (v : Byte) (s : State) : (s.withP v).x = s.x := rfl
@[simp] theorem State.withP_y (v : Byte) (s : State) : (s.withP v).y = s.y := rfl
@[simp] theorem State.withP_sp (v : Byte) (s : State) : (s.withP v).sp = s.sp := rfl
@[simp] theorem State.withP_pc (v : Byte) (s : State) : (s.withP v).pc = s.pc := rfl
@[simp] theorem State.withP_p (v : Byte) (s : State) : (s.withP v).p = v := rfl
@[simp] theorem State.withP_mem (v : Byte) (s : State) : (s.withP v).mem = s.mem := rfl
@[simp] theorem State.withP_writeProtectHighRom (v : Byte) (s : State) : (s.withP v).writeProtectHighRom = s.writeProtectHighRom := rfl
@[simp] theorem State.withP_ramExpansion8k (v : Byte) (s : State) : (s.withP v).ramExpansion8k = s.ramExpansion8k := rfl
@[simp] theorem State.withP_roms (v : Byte) (s : State) : (s.withP v).roms = s.roms := rfl
@[simp] theorem State.withP_pia (v : Byte) (s : State) : (s.withP v).pia = s.pia := rfl
@[simp] theorem State.withP_irqLine (v : Byte) (s : State) : (s.withP v).irqLine = s.irqLine := rfl
@[simp] theorem State.withP_nmiPending (v : Byte) (s : State) : (s.withP v).nmiPending = s.nmiPending := rfl
@[simp] theorem State.withP_cycles (v : Byte) (s : State) : (s.withP v).cycles = s.cycles := rfl
@[simp] theorem State.withP_pendingControl (v : Byte) (s : State) : (s.withP v).pendingControl = s.pendingControl := rfl
@[simp] theorem State.withP_hostTurns (v : Byte) (s : State) : (s.withP v).hostTurns = s.hostTurns := rfl

/-! `withMem` writes `mem` and nothing else. -/
@[simp] theorem State.withMem_a (v : Memory) (s : State) : (s.withMem v).a = s.a := rfl
@[simp] theorem State.withMem_x (v : Memory) (s : State) : (s.withMem v).x = s.x := rfl
@[simp] theorem State.withMem_y (v : Memory) (s : State) : (s.withMem v).y = s.y := rfl
@[simp] theorem State.withMem_sp (v : Memory) (s : State) : (s.withMem v).sp = s.sp := rfl
@[simp] theorem State.withMem_pc (v : Memory) (s : State) : (s.withMem v).pc = s.pc := rfl
@[simp] theorem State.withMem_p (v : Memory) (s : State) : (s.withMem v).p = s.p := rfl
@[simp] theorem State.withMem_mem (v : Memory) (s : State) : (s.withMem v).mem = v := rfl
@[simp] theorem State.withMem_writeProtectHighRom (v : Memory) (s : State) : (s.withMem v).writeProtectHighRom = s.writeProtectHighRom := rfl
@[simp] theorem State.withMem_ramExpansion8k (v : Memory) (s : State) : (s.withMem v).ramExpansion8k = s.ramExpansion8k := rfl
@[simp] theorem State.withMem_roms (v : Memory) (s : State) : (s.withMem v).roms = s.roms := rfl
@[simp] theorem State.withMem_pia (v : Memory) (s : State) : (s.withMem v).pia = s.pia := rfl
@[simp] theorem State.withMem_irqLine (v : Memory) (s : State) : (s.withMem v).irqLine = s.irqLine := rfl
@[simp] theorem State.withMem_nmiPending (v : Memory) (s : State) : (s.withMem v).nmiPending = s.nmiPending := rfl
@[simp] theorem State.withMem_cycles (v : Memory) (s : State) : (s.withMem v).cycles = s.cycles := rfl
@[simp] theorem State.withMem_pendingControl (v : Memory) (s : State) : (s.withMem v).pendingControl = s.pendingControl := rfl
@[simp] theorem State.withMem_hostTurns (v : Memory) (s : State) : (s.withMem v).hostTurns = s.hostTurns := rfl

/-! `withWriteProtectHighRom` writes `writeProtectHighRom` and nothing else. -/
@[simp] theorem State.withWriteProtectHighRom_a (v : Bool) (s : State) : (s.withWriteProtectHighRom v).a = s.a := rfl
@[simp] theorem State.withWriteProtectHighRom_x (v : Bool) (s : State) : (s.withWriteProtectHighRom v).x = s.x := rfl
@[simp] theorem State.withWriteProtectHighRom_y (v : Bool) (s : State) : (s.withWriteProtectHighRom v).y = s.y := rfl
@[simp] theorem State.withWriteProtectHighRom_sp (v : Bool) (s : State) : (s.withWriteProtectHighRom v).sp = s.sp := rfl
@[simp] theorem State.withWriteProtectHighRom_pc (v : Bool) (s : State) : (s.withWriteProtectHighRom v).pc = s.pc := rfl
@[simp] theorem State.withWriteProtectHighRom_p (v : Bool) (s : State) : (s.withWriteProtectHighRom v).p = s.p := rfl
@[simp] theorem State.withWriteProtectHighRom_mem (v : Bool) (s : State) : (s.withWriteProtectHighRom v).mem = s.mem := rfl
@[simp] theorem State.withWriteProtectHighRom_writeProtectHighRom (v : Bool) (s : State) : (s.withWriteProtectHighRom v).writeProtectHighRom = v := rfl
@[simp] theorem State.withWriteProtectHighRom_ramExpansion8k (v : Bool) (s : State) : (s.withWriteProtectHighRom v).ramExpansion8k = s.ramExpansion8k := rfl
@[simp] theorem State.withWriteProtectHighRom_roms (v : Bool) (s : State) : (s.withWriteProtectHighRom v).roms = s.roms := rfl
@[simp] theorem State.withWriteProtectHighRom_pia (v : Bool) (s : State) : (s.withWriteProtectHighRom v).pia = s.pia := rfl
@[simp] theorem State.withWriteProtectHighRom_irqLine (v : Bool) (s : State) : (s.withWriteProtectHighRom v).irqLine = s.irqLine := rfl
@[simp] theorem State.withWriteProtectHighRom_nmiPending (v : Bool) (s : State) : (s.withWriteProtectHighRom v).nmiPending = s.nmiPending := rfl
@[simp] theorem State.withWriteProtectHighRom_cycles (v : Bool) (s : State) : (s.withWriteProtectHighRom v).cycles = s.cycles := rfl
@[simp] theorem State.withWriteProtectHighRom_pendingControl (v : Bool) (s : State) : (s.withWriteProtectHighRom v).pendingControl = s.pendingControl := rfl
@[simp] theorem State.withWriteProtectHighRom_hostTurns (v : Bool) (s : State) : (s.withWriteProtectHighRom v).hostTurns = s.hostTurns := rfl

/-! `withRamExpansion8k` writes `ramExpansion8k` and nothing else. -/
@[simp] theorem State.withRamExpansion8k_a (v : Bool) (s : State) : (s.withRamExpansion8k v).a = s.a := rfl
@[simp] theorem State.withRamExpansion8k_x (v : Bool) (s : State) : (s.withRamExpansion8k v).x = s.x := rfl
@[simp] theorem State.withRamExpansion8k_y (v : Bool) (s : State) : (s.withRamExpansion8k v).y = s.y := rfl
@[simp] theorem State.withRamExpansion8k_sp (v : Bool) (s : State) : (s.withRamExpansion8k v).sp = s.sp := rfl
@[simp] theorem State.withRamExpansion8k_pc (v : Bool) (s : State) : (s.withRamExpansion8k v).pc = s.pc := rfl
@[simp] theorem State.withRamExpansion8k_p (v : Bool) (s : State) : (s.withRamExpansion8k v).p = s.p := rfl
@[simp] theorem State.withRamExpansion8k_mem (v : Bool) (s : State) : (s.withRamExpansion8k v).mem = s.mem := rfl
@[simp] theorem State.withRamExpansion8k_writeProtectHighRom (v : Bool) (s : State) : (s.withRamExpansion8k v).writeProtectHighRom = s.writeProtectHighRom := rfl
@[simp] theorem State.withRamExpansion8k_ramExpansion8k (v : Bool) (s : State) : (s.withRamExpansion8k v).ramExpansion8k = v := rfl
@[simp] theorem State.withRamExpansion8k_roms (v : Bool) (s : State) : (s.withRamExpansion8k v).roms = s.roms := rfl
@[simp] theorem State.withRamExpansion8k_pia (v : Bool) (s : State) : (s.withRamExpansion8k v).pia = s.pia := rfl
@[simp] theorem State.withRamExpansion8k_irqLine (v : Bool) (s : State) : (s.withRamExpansion8k v).irqLine = s.irqLine := rfl
@[simp] theorem State.withRamExpansion8k_nmiPending (v : Bool) (s : State) : (s.withRamExpansion8k v).nmiPending = s.nmiPending := rfl
@[simp] theorem State.withRamExpansion8k_cycles (v : Bool) (s : State) : (s.withRamExpansion8k v).cycles = s.cycles := rfl
@[simp] theorem State.withRamExpansion8k_pendingControl (v : Bool) (s : State) : (s.withRamExpansion8k v).pendingControl = s.pendingControl := rfl
@[simp] theorem State.withRamExpansion8k_hostTurns (v : Bool) (s : State) : (s.withRamExpansion8k v).hostTurns = s.hostTurns := rfl

/-! `withRoms` writes `roms` and nothing else. -/
@[simp] theorem State.withRoms_a (v : Roms) (s : State) : (s.withRoms v).a = s.a := rfl
@[simp] theorem State.withRoms_x (v : Roms) (s : State) : (s.withRoms v).x = s.x := rfl
@[simp] theorem State.withRoms_y (v : Roms) (s : State) : (s.withRoms v).y = s.y := rfl
@[simp] theorem State.withRoms_sp (v : Roms) (s : State) : (s.withRoms v).sp = s.sp := rfl
@[simp] theorem State.withRoms_pc (v : Roms) (s : State) : (s.withRoms v).pc = s.pc := rfl
@[simp] theorem State.withRoms_p (v : Roms) (s : State) : (s.withRoms v).p = s.p := rfl
@[simp] theorem State.withRoms_mem (v : Roms) (s : State) : (s.withRoms v).mem = s.mem := rfl
@[simp] theorem State.withRoms_writeProtectHighRom (v : Roms) (s : State) : (s.withRoms v).writeProtectHighRom = s.writeProtectHighRom := rfl
@[simp] theorem State.withRoms_ramExpansion8k (v : Roms) (s : State) : (s.withRoms v).ramExpansion8k = s.ramExpansion8k := rfl
@[simp] theorem State.withRoms_roms (v : Roms) (s : State) : (s.withRoms v).roms = v := rfl
@[simp] theorem State.withRoms_pia (v : Roms) (s : State) : (s.withRoms v).pia = s.pia := rfl
@[simp] theorem State.withRoms_irqLine (v : Roms) (s : State) : (s.withRoms v).irqLine = s.irqLine := rfl
@[simp] theorem State.withRoms_nmiPending (v : Roms) (s : State) : (s.withRoms v).nmiPending = s.nmiPending := rfl
@[simp] theorem State.withRoms_cycles (v : Roms) (s : State) : (s.withRoms v).cycles = s.cycles := rfl
@[simp] theorem State.withRoms_pendingControl (v : Roms) (s : State) : (s.withRoms v).pendingControl = s.pendingControl := rfl
@[simp] theorem State.withRoms_hostTurns (v : Roms) (s : State) : (s.withRoms v).hostTurns = s.hostTurns := rfl

/-! `withPia` writes `pia` and nothing else. -/
@[simp] theorem State.withPia_a (v : Pia) (s : State) : (s.withPia v).a = s.a := rfl
@[simp] theorem State.withPia_x (v : Pia) (s : State) : (s.withPia v).x = s.x := rfl
@[simp] theorem State.withPia_y (v : Pia) (s : State) : (s.withPia v).y = s.y := rfl
@[simp] theorem State.withPia_sp (v : Pia) (s : State) : (s.withPia v).sp = s.sp := rfl
@[simp] theorem State.withPia_pc (v : Pia) (s : State) : (s.withPia v).pc = s.pc := rfl
@[simp] theorem State.withPia_p (v : Pia) (s : State) : (s.withPia v).p = s.p := rfl
@[simp] theorem State.withPia_mem (v : Pia) (s : State) : (s.withPia v).mem = s.mem := rfl
@[simp] theorem State.withPia_writeProtectHighRom (v : Pia) (s : State) : (s.withPia v).writeProtectHighRom = s.writeProtectHighRom := rfl
@[simp] theorem State.withPia_ramExpansion8k (v : Pia) (s : State) : (s.withPia v).ramExpansion8k = s.ramExpansion8k := rfl
@[simp] theorem State.withPia_roms (v : Pia) (s : State) : (s.withPia v).roms = s.roms := rfl
@[simp] theorem State.withPia_pia (v : Pia) (s : State) : (s.withPia v).pia = v := rfl
@[simp] theorem State.withPia_irqLine (v : Pia) (s : State) : (s.withPia v).irqLine = s.irqLine := rfl
@[simp] theorem State.withPia_nmiPending (v : Pia) (s : State) : (s.withPia v).nmiPending = s.nmiPending := rfl
@[simp] theorem State.withPia_cycles (v : Pia) (s : State) : (s.withPia v).cycles = s.cycles := rfl
@[simp] theorem State.withPia_pendingControl (v : Pia) (s : State) : (s.withPia v).pendingControl = s.pendingControl := rfl
@[simp] theorem State.withPia_hostTurns (v : Pia) (s : State) : (s.withPia v).hostTurns = s.hostTurns := rfl

/-! `withIrqLine` writes `irqLine` and nothing else. -/
@[simp] theorem State.withIrqLine_a (v : Bool) (s : State) : (s.withIrqLine v).a = s.a := rfl
@[simp] theorem State.withIrqLine_x (v : Bool) (s : State) : (s.withIrqLine v).x = s.x := rfl
@[simp] theorem State.withIrqLine_y (v : Bool) (s : State) : (s.withIrqLine v).y = s.y := rfl
@[simp] theorem State.withIrqLine_sp (v : Bool) (s : State) : (s.withIrqLine v).sp = s.sp := rfl
@[simp] theorem State.withIrqLine_pc (v : Bool) (s : State) : (s.withIrqLine v).pc = s.pc := rfl
@[simp] theorem State.withIrqLine_p (v : Bool) (s : State) : (s.withIrqLine v).p = s.p := rfl
@[simp] theorem State.withIrqLine_mem (v : Bool) (s : State) : (s.withIrqLine v).mem = s.mem := rfl
@[simp] theorem State.withIrqLine_writeProtectHighRom (v : Bool) (s : State) : (s.withIrqLine v).writeProtectHighRom = s.writeProtectHighRom := rfl
@[simp] theorem State.withIrqLine_ramExpansion8k (v : Bool) (s : State) : (s.withIrqLine v).ramExpansion8k = s.ramExpansion8k := rfl
@[simp] theorem State.withIrqLine_roms (v : Bool) (s : State) : (s.withIrqLine v).roms = s.roms := rfl
@[simp] theorem State.withIrqLine_pia (v : Bool) (s : State) : (s.withIrqLine v).pia = s.pia := rfl
@[simp] theorem State.withIrqLine_irqLine (v : Bool) (s : State) : (s.withIrqLine v).irqLine = v := rfl
@[simp] theorem State.withIrqLine_nmiPending (v : Bool) (s : State) : (s.withIrqLine v).nmiPending = s.nmiPending := rfl
@[simp] theorem State.withIrqLine_cycles (v : Bool) (s : State) : (s.withIrqLine v).cycles = s.cycles := rfl
@[simp] theorem State.withIrqLine_pendingControl (v : Bool) (s : State) : (s.withIrqLine v).pendingControl = s.pendingControl := rfl
@[simp] theorem State.withIrqLine_hostTurns (v : Bool) (s : State) : (s.withIrqLine v).hostTurns = s.hostTurns := rfl

/-! `withNmiPending` writes `nmiPending` and nothing else. -/
@[simp] theorem State.withNmiPending_a (v : Bool) (s : State) : (s.withNmiPending v).a = s.a := rfl
@[simp] theorem State.withNmiPending_x (v : Bool) (s : State) : (s.withNmiPending v).x = s.x := rfl
@[simp] theorem State.withNmiPending_y (v : Bool) (s : State) : (s.withNmiPending v).y = s.y := rfl
@[simp] theorem State.withNmiPending_sp (v : Bool) (s : State) : (s.withNmiPending v).sp = s.sp := rfl
@[simp] theorem State.withNmiPending_pc (v : Bool) (s : State) : (s.withNmiPending v).pc = s.pc := rfl
@[simp] theorem State.withNmiPending_p (v : Bool) (s : State) : (s.withNmiPending v).p = s.p := rfl
@[simp] theorem State.withNmiPending_mem (v : Bool) (s : State) : (s.withNmiPending v).mem = s.mem := rfl
@[simp] theorem State.withNmiPending_writeProtectHighRom (v : Bool) (s : State) : (s.withNmiPending v).writeProtectHighRom = s.writeProtectHighRom := rfl
@[simp] theorem State.withNmiPending_ramExpansion8k (v : Bool) (s : State) : (s.withNmiPending v).ramExpansion8k = s.ramExpansion8k := rfl
@[simp] theorem State.withNmiPending_roms (v : Bool) (s : State) : (s.withNmiPending v).roms = s.roms := rfl
@[simp] theorem State.withNmiPending_pia (v : Bool) (s : State) : (s.withNmiPending v).pia = s.pia := rfl
@[simp] theorem State.withNmiPending_irqLine (v : Bool) (s : State) : (s.withNmiPending v).irqLine = s.irqLine := rfl
@[simp] theorem State.withNmiPending_nmiPending (v : Bool) (s : State) : (s.withNmiPending v).nmiPending = v := rfl
@[simp] theorem State.withNmiPending_cycles (v : Bool) (s : State) : (s.withNmiPending v).cycles = s.cycles := rfl
@[simp] theorem State.withNmiPending_pendingControl (v : Bool) (s : State) : (s.withNmiPending v).pendingControl = s.pendingControl := rfl
@[simp] theorem State.withNmiPending_hostTurns (v : Bool) (s : State) : (s.withNmiPending v).hostTurns = s.hostTurns := rfl

/-! `withCycles` writes `cycles` and nothing else. -/
@[simp] theorem State.withCycles_a (v : Nat) (s : State) : (s.withCycles v).a = s.a := rfl
@[simp] theorem State.withCycles_x (v : Nat) (s : State) : (s.withCycles v).x = s.x := rfl
@[simp] theorem State.withCycles_y (v : Nat) (s : State) : (s.withCycles v).y = s.y := rfl
@[simp] theorem State.withCycles_sp (v : Nat) (s : State) : (s.withCycles v).sp = s.sp := rfl
@[simp] theorem State.withCycles_pc (v : Nat) (s : State) : (s.withCycles v).pc = s.pc := rfl
@[simp] theorem State.withCycles_p (v : Nat) (s : State) : (s.withCycles v).p = s.p := rfl
@[simp] theorem State.withCycles_mem (v : Nat) (s : State) : (s.withCycles v).mem = s.mem := rfl
@[simp] theorem State.withCycles_writeProtectHighRom (v : Nat) (s : State) : (s.withCycles v).writeProtectHighRom = s.writeProtectHighRom := rfl
@[simp] theorem State.withCycles_ramExpansion8k (v : Nat) (s : State) : (s.withCycles v).ramExpansion8k = s.ramExpansion8k := rfl
@[simp] theorem State.withCycles_roms (v : Nat) (s : State) : (s.withCycles v).roms = s.roms := rfl
@[simp] theorem State.withCycles_pia (v : Nat) (s : State) : (s.withCycles v).pia = s.pia := rfl
@[simp] theorem State.withCycles_irqLine (v : Nat) (s : State) : (s.withCycles v).irqLine = s.irqLine := rfl
@[simp] theorem State.withCycles_nmiPending (v : Nat) (s : State) : (s.withCycles v).nmiPending = s.nmiPending := rfl
@[simp] theorem State.withCycles_cycles (v : Nat) (s : State) : (s.withCycles v).cycles = v := rfl
@[simp] theorem State.withCycles_pendingControl (v : Nat) (s : State) : (s.withCycles v).pendingControl = s.pendingControl := rfl
@[simp] theorem State.withCycles_hostTurns (v : Nat) (s : State) : (s.withCycles v).hostTurns = s.hostTurns := rfl

/-! `withPendingControl` writes `pendingControl` and nothing else. -/
@[simp] theorem State.withPendingControl_a (v : List ControlMove) (s : State) : (s.withPendingControl v).a = s.a := rfl
@[simp] theorem State.withPendingControl_x (v : List ControlMove) (s : State) : (s.withPendingControl v).x = s.x := rfl
@[simp] theorem State.withPendingControl_y (v : List ControlMove) (s : State) : (s.withPendingControl v).y = s.y := rfl
@[simp] theorem State.withPendingControl_sp (v : List ControlMove) (s : State) : (s.withPendingControl v).sp = s.sp := rfl
@[simp] theorem State.withPendingControl_pc (v : List ControlMove) (s : State) : (s.withPendingControl v).pc = s.pc := rfl
@[simp] theorem State.withPendingControl_p (v : List ControlMove) (s : State) : (s.withPendingControl v).p = s.p := rfl
@[simp] theorem State.withPendingControl_mem (v : List ControlMove) (s : State) : (s.withPendingControl v).mem = s.mem := rfl
@[simp] theorem State.withPendingControl_writeProtectHighRom (v : List ControlMove) (s : State) : (s.withPendingControl v).writeProtectHighRom = s.writeProtectHighRom := rfl
@[simp] theorem State.withPendingControl_ramExpansion8k (v : List ControlMove) (s : State) : (s.withPendingControl v).ramExpansion8k = s.ramExpansion8k := rfl
@[simp] theorem State.withPendingControl_roms (v : List ControlMove) (s : State) : (s.withPendingControl v).roms = s.roms := rfl
@[simp] theorem State.withPendingControl_pia (v : List ControlMove) (s : State) : (s.withPendingControl v).pia = s.pia := rfl
@[simp] theorem State.withPendingControl_irqLine (v : List ControlMove) (s : State) : (s.withPendingControl v).irqLine = s.irqLine := rfl
@[simp] theorem State.withPendingControl_nmiPending (v : List ControlMove) (s : State) : (s.withPendingControl v).nmiPending = s.nmiPending := rfl
@[simp] theorem State.withPendingControl_cycles (v : List ControlMove) (s : State) : (s.withPendingControl v).cycles = s.cycles := rfl
@[simp] theorem State.withPendingControl_pendingControl (v : List ControlMove) (s : State) : (s.withPendingControl v).pendingControl = v := rfl
@[simp] theorem State.withPendingControl_hostTurns (v : List ControlMove) (s : State) : (s.withPendingControl v).hostTurns = s.hostTurns := rfl

/-! `withHostTurns` writes `hostTurns` and nothing else. -/
@[simp] theorem State.withHostTurns_a (v : List (List HostMove)) (s : State) : (s.withHostTurns v).a = s.a := rfl
@[simp] theorem State.withHostTurns_x (v : List (List HostMove)) (s : State) : (s.withHostTurns v).x = s.x := rfl
@[simp] theorem State.withHostTurns_y (v : List (List HostMove)) (s : State) : (s.withHostTurns v).y = s.y := rfl
@[simp] theorem State.withHostTurns_sp (v : List (List HostMove)) (s : State) : (s.withHostTurns v).sp = s.sp := rfl
@[simp] theorem State.withHostTurns_pc (v : List (List HostMove)) (s : State) : (s.withHostTurns v).pc = s.pc := rfl
@[simp] theorem State.withHostTurns_p (v : List (List HostMove)) (s : State) : (s.withHostTurns v).p = s.p := rfl
@[simp] theorem State.withHostTurns_mem (v : List (List HostMove)) (s : State) : (s.withHostTurns v).mem = s.mem := rfl
@[simp] theorem State.withHostTurns_writeProtectHighRom (v : List (List HostMove)) (s : State) : (s.withHostTurns v).writeProtectHighRom = s.writeProtectHighRom := rfl
@[simp] theorem State.withHostTurns_ramExpansion8k (v : List (List HostMove)) (s : State) : (s.withHostTurns v).ramExpansion8k = s.ramExpansion8k := rfl
@[simp] theorem State.withHostTurns_roms (v : List (List HostMove)) (s : State) : (s.withHostTurns v).roms = s.roms := rfl
@[simp] theorem State.withHostTurns_pia (v : List (List HostMove)) (s : State) : (s.withHostTurns v).pia = s.pia := rfl
@[simp] theorem State.withHostTurns_irqLine (v : List (List HostMove)) (s : State) : (s.withHostTurns v).irqLine = s.irqLine := rfl
@[simp] theorem State.withHostTurns_nmiPending (v : List (List HostMove)) (s : State) : (s.withHostTurns v).nmiPending = s.nmiPending := rfl
@[simp] theorem State.withHostTurns_cycles (v : List (List HostMove)) (s : State) : (s.withHostTurns v).cycles = s.cycles := rfl
@[simp] theorem State.withHostTurns_pendingControl (v : List (List HostMove)) (s : State) : (s.withHostTurns v).pendingControl = s.pendingControl := rfl
@[simp] theorem State.withHostTurns_hostTurns (v : List (List HostMove)) (s : State) : (s.withHostTurns v).hostTurns = v := rfl

/-! `addCycles` writes `cycles` and nothing else. -/
@[simp] theorem State.addCycles_a (n : Nat) (s : State) : (s.addCycles n).a = s.a := rfl
@[simp] theorem State.addCycles_x (n : Nat) (s : State) : (s.addCycles n).x = s.x := rfl
@[simp] theorem State.addCycles_y (n : Nat) (s : State) : (s.addCycles n).y = s.y := rfl
@[simp] theorem State.addCycles_sp (n : Nat) (s : State) : (s.addCycles n).sp = s.sp := rfl
@[simp] theorem State.addCycles_pc (n : Nat) (s : State) : (s.addCycles n).pc = s.pc := rfl
@[simp] theorem State.addCycles_p (n : Nat) (s : State) : (s.addCycles n).p = s.p := rfl
@[simp] theorem State.addCycles_mem (n : Nat) (s : State) : (s.addCycles n).mem = s.mem := rfl
@[simp] theorem State.addCycles_writeProtectHighRom (n : Nat) (s : State) : (s.addCycles n).writeProtectHighRom = s.writeProtectHighRom := rfl
@[simp] theorem State.addCycles_ramExpansion8k (n : Nat) (s : State) : (s.addCycles n).ramExpansion8k = s.ramExpansion8k := rfl
@[simp] theorem State.addCycles_pia (n : Nat) (s : State) : (s.addCycles n).pia = s.pia := rfl
@[simp] theorem State.addCycles_irqLine (n : Nat) (s : State) : (s.addCycles n).irqLine = s.irqLine := rfl
@[simp] theorem State.addCycles_nmiPending (n : Nat) (s : State) : (s.addCycles n).nmiPending = s.nmiPending := rfl
@[simp] theorem State.addCycles_cycles (n : Nat) (s : State) : (s.addCycles n).cycles = s.cycles + n := rfl
@[simp] theorem State.addCycles_pendingControl (n : Nat) (s : State) : (s.addCycles n).pendingControl = s.pendingControl := rfl
@[simp] theorem State.addCycles_hostTurns (n : Nat) (s : State) : (s.addCycles n).hostTurns = s.hostTurns := rfl

/-! `writeP` writes `p` and nothing else. -/
@[simp] theorem State.writeP_a (v : Byte) (s : State) : (s.writeP v).a = s.a := rfl
@[simp] theorem State.writeP_x (v : Byte) (s : State) : (s.writeP v).x = s.x := rfl
@[simp] theorem State.writeP_y (v : Byte) (s : State) : (s.writeP v).y = s.y := rfl
@[simp] theorem State.writeP_sp (v : Byte) (s : State) : (s.writeP v).sp = s.sp := rfl
@[simp] theorem State.writeP_pc (v : Byte) (s : State) : (s.writeP v).pc = s.pc := rfl
@[simp] theorem State.writeP_p (v : Byte) (s : State) : (s.writeP v).p = v ||| 0x20#8 := rfl
@[simp] theorem State.writeP_mem (v : Byte) (s : State) : (s.writeP v).mem = s.mem := rfl
@[simp] theorem State.writeP_writeProtectHighRom (v : Byte) (s : State) : (s.writeP v).writeProtectHighRom = s.writeProtectHighRom := rfl
@[simp] theorem State.writeP_ramExpansion8k (v : Byte) (s : State) : (s.writeP v).ramExpansion8k = s.ramExpansion8k := rfl
@[simp] theorem State.writeP_pia (v : Byte) (s : State) : (s.writeP v).pia = s.pia := rfl
@[simp] theorem State.writeP_irqLine (v : Byte) (s : State) : (s.writeP v).irqLine = s.irqLine := rfl
@[simp] theorem State.writeP_nmiPending (v : Byte) (s : State) : (s.writeP v).nmiPending = s.nmiPending := rfl
@[simp] theorem State.writeP_cycles (v : Byte) (s : State) : (s.writeP v).cycles = s.cycles := rfl
@[simp] theorem State.writeP_pendingControl (v : Byte) (s : State) : (s.writeP v).pendingControl = s.pendingControl := rfl
@[simp] theorem State.writeP_hostTurns (v : Byte) (s : State) : (s.writeP v).hostTurns = s.hostTurns := rfl

end Sys2Proof.Machine
end

