-- ==== Sys2Proof/Laws/Flags.lean ====
section
/-! SUPPORT. What writing a bit of `P` does, flag by flag, and what the flag writers leave alone. -/

namespace Sys2Proof.Machine

/-- Writing one bit gives that bit its value and leaves every other bit. -/
theorem getLsbD_putBit (v : Byte) (k j : Nat) (b : Bool) (hk : k < 8) :
    (putBit v k b).getLsbD j = if j = k then b else v.getLsbD j := by
  by_cases hj : j < 8
  · have h1 : (1#8 <<< k).getLsbD j = decide (j = k) := by
      rw [BitVec.getLsbD_shiftLeft, BitVec.getLsbD_one]
      by_cases h : j = k <;> by_cases h2 : j < k <;> simp [h, h2, hj, hk]; omega
    cases b
    · show (v &&& ~~~(1#8 <<< k)).getLsbD j = _
      rw [BitVec.getLsbD_and, BitVec.getLsbD_not, h1]
      by_cases h : j = k <;> simp [h, hj, hk]
    · show (v ||| (1#8 <<< k)).getLsbD j = _
      rw [BitVec.getLsbD_or, h1]
      by_cases h : j = k <;> simp [h]
  · have : j ≠ k := by omega
    rw [BitVec.getLsbD_of_ge _ _ (by omega), BitVec.getLsbD_of_ge _ _ (by omega)]
    simp [this]

/-- A bit of `P` after a bit of it is written. -/
theorem State.flag_setFlag (k j : Nat) (b : Bool) (s : State) (hk : k < 8) :
    (s.setFlag k b).flag j = if j = k then b else s.flag j := getLsbD_putBit s.p k j b hk

/-! `setFlag` writes bits of `P` and nothing else. -/
@[simp] theorem State.setFlag_a (k : Nat) (b : Bool) (s : State) : (s.setFlag k b).a = s.a := rfl
@[simp] theorem State.setFlag_x (k : Nat) (b : Bool) (s : State) : (s.setFlag k b).x = s.x := rfl
@[simp] theorem State.setFlag_y (k : Nat) (b : Bool) (s : State) : (s.setFlag k b).y = s.y := rfl
@[simp] theorem State.setFlag_sp (k : Nat) (b : Bool) (s : State) : (s.setFlag k b).sp = s.sp := rfl
@[simp] theorem State.setFlag_pc (k : Nat) (b : Bool) (s : State) : (s.setFlag k b).pc = s.pc := rfl
@[simp] theorem State.setFlag_mem (k : Nat) (b : Bool) (s : State) : (s.setFlag k b).mem = s.mem := rfl
@[simp] theorem State.setFlag_writeProtectHighRom (k : Nat) (b : Bool) (s : State) : (s.setFlag k b).writeProtectHighRom = s.writeProtectHighRom := rfl
@[simp] theorem State.setFlag_ramExpansion8k (k : Nat) (b : Bool) (s : State) : (s.setFlag k b).ramExpansion8k = s.ramExpansion8k := rfl
@[simp] theorem State.setFlag_roms (k : Nat) (b : Bool) (s : State) : (s.setFlag k b).roms = s.roms := rfl
@[simp] theorem State.setFlag_pia (k : Nat) (b : Bool) (s : State) : (s.setFlag k b).pia = s.pia := rfl
@[simp] theorem State.setFlag_irqLine (k : Nat) (b : Bool) (s : State) : (s.setFlag k b).irqLine = s.irqLine := rfl
@[simp] theorem State.setFlag_nmiPending (k : Nat) (b : Bool) (s : State) : (s.setFlag k b).nmiPending = s.nmiPending := rfl
@[simp] theorem State.setFlag_cycles (k : Nat) (b : Bool) (s : State) : (s.setFlag k b).cycles = s.cycles := rfl
@[simp] theorem State.setFlag_pendingControl (k : Nat) (b : Bool) (s : State) : (s.setFlag k b).pendingControl = s.pendingControl := rfl
@[simp] theorem State.setFlag_hostTurns (k : Nat) (b : Bool) (s : State) : (s.setFlag k b).hostTurns = s.hostTurns := rfl

/-! `setNZ` writes bits of `P` and nothing else. -/
@[simp] theorem State.setNZ_a (v : Byte) (s : State) : (s.setNZ v).a = s.a := rfl
@[simp] theorem State.setNZ_x (v : Byte) (s : State) : (s.setNZ v).x = s.x := rfl
@[simp] theorem State.setNZ_y (v : Byte) (s : State) : (s.setNZ v).y = s.y := rfl
@[simp] theorem State.setNZ_sp (v : Byte) (s : State) : (s.setNZ v).sp = s.sp := rfl
@[simp] theorem State.setNZ_pc (v : Byte) (s : State) : (s.setNZ v).pc = s.pc := rfl
@[simp] theorem State.setNZ_mem (v : Byte) (s : State) : (s.setNZ v).mem = s.mem := rfl
@[simp] theorem State.setNZ_writeProtectHighRom (v : Byte) (s : State) : (s.setNZ v).writeProtectHighRom = s.writeProtectHighRom := rfl
@[simp] theorem State.setNZ_ramExpansion8k (v : Byte) (s : State) : (s.setNZ v).ramExpansion8k = s.ramExpansion8k := rfl
@[simp] theorem State.setNZ_roms (v : Byte) (s : State) : (s.setNZ v).roms = s.roms := rfl
@[simp] theorem State.setNZ_pia (v : Byte) (s : State) : (s.setNZ v).pia = s.pia := rfl
@[simp] theorem State.setNZ_irqLine (v : Byte) (s : State) : (s.setNZ v).irqLine = s.irqLine := rfl
@[simp] theorem State.setNZ_nmiPending (v : Byte) (s : State) : (s.setNZ v).nmiPending = s.nmiPending := rfl
@[simp] theorem State.setNZ_cycles (v : Byte) (s : State) : (s.setNZ v).cycles = s.cycles := rfl
@[simp] theorem State.setNZ_pendingControl (v : Byte) (s : State) : (s.setNZ v).pendingControl = s.pendingControl := rfl
@[simp] theorem State.setNZ_hostTurns (v : Byte) (s : State) : (s.setNZ v).hostTurns = s.hostTurns := rfl

/-! `setNVZC` writes bits of `P` and nothing else. -/
@[simp] theorem State.setNVZC_a (o : AluResult) (s : State) : (s.setNVZC o).a = s.a := rfl
@[simp] theorem State.setNVZC_x (o : AluResult) (s : State) : (s.setNVZC o).x = s.x := rfl
@[simp] theorem State.setNVZC_y (o : AluResult) (s : State) : (s.setNVZC o).y = s.y := rfl
@[simp] theorem State.setNVZC_sp (o : AluResult) (s : State) : (s.setNVZC o).sp = s.sp := rfl
@[simp] theorem State.setNVZC_pc (o : AluResult) (s : State) : (s.setNVZC o).pc = s.pc := rfl
@[simp] theorem State.setNVZC_mem (o : AluResult) (s : State) : (s.setNVZC o).mem = s.mem := rfl
@[simp] theorem State.setNVZC_writeProtectHighRom (o : AluResult) (s : State) : (s.setNVZC o).writeProtectHighRom = s.writeProtectHighRom := rfl
@[simp] theorem State.setNVZC_ramExpansion8k (o : AluResult) (s : State) : (s.setNVZC o).ramExpansion8k = s.ramExpansion8k := rfl
@[simp] theorem State.setNVZC_roms (o : AluResult) (s : State) : (s.setNVZC o).roms = s.roms := rfl
@[simp] theorem State.setNVZC_pia (o : AluResult) (s : State) : (s.setNVZC o).pia = s.pia := rfl
@[simp] theorem State.setNVZC_irqLine (o : AluResult) (s : State) : (s.setNVZC o).irqLine = s.irqLine := rfl
@[simp] theorem State.setNVZC_nmiPending (o : AluResult) (s : State) : (s.setNVZC o).nmiPending = s.nmiPending := rfl
@[simp] theorem State.setNVZC_cycles (o : AluResult) (s : State) : (s.setNVZC o).cycles = s.cycles := rfl
@[simp] theorem State.setNVZC_pendingControl (o : AluResult) (s : State) : (s.setNVZC o).pendingControl = s.pendingControl := rfl
@[simp] theorem State.setNVZC_hostTurns (o : AluResult) (s : State) : (s.setNVZC o).hostTurns = s.hostTurns := rfl

/-! `setNZC` writes bits of `P` and nothing else. -/
@[simp] theorem State.setNZC_a (o : AluResult) (s : State) : (s.setNZC o).a = s.a := rfl
@[simp] theorem State.setNZC_x (o : AluResult) (s : State) : (s.setNZC o).x = s.x := rfl
@[simp] theorem State.setNZC_y (o : AluResult) (s : State) : (s.setNZC o).y = s.y := rfl
@[simp] theorem State.setNZC_sp (o : AluResult) (s : State) : (s.setNZC o).sp = s.sp := rfl
@[simp] theorem State.setNZC_pc (o : AluResult) (s : State) : (s.setNZC o).pc = s.pc := rfl
@[simp] theorem State.setNZC_mem (o : AluResult) (s : State) : (s.setNZC o).mem = s.mem := rfl
@[simp] theorem State.setNZC_writeProtectHighRom (o : AluResult) (s : State) : (s.setNZC o).writeProtectHighRom = s.writeProtectHighRom := rfl
@[simp] theorem State.setNZC_ramExpansion8k (o : AluResult) (s : State) : (s.setNZC o).ramExpansion8k = s.ramExpansion8k := rfl
@[simp] theorem State.setNZC_roms (o : AluResult) (s : State) : (s.setNZC o).roms = s.roms := rfl
@[simp] theorem State.setNZC_pia (o : AluResult) (s : State) : (s.setNZC o).pia = s.pia := rfl
@[simp] theorem State.setNZC_irqLine (o : AluResult) (s : State) : (s.setNZC o).irqLine = s.irqLine := rfl
@[simp] theorem State.setNZC_nmiPending (o : AluResult) (s : State) : (s.setNZC o).nmiPending = s.nmiPending := rfl
@[simp] theorem State.setNZC_cycles (o : AluResult) (s : State) : (s.setNZC o).cycles = s.cycles := rfl
@[simp] theorem State.setNZC_pendingControl (o : AluResult) (s : State) : (s.setNZC o).pendingControl = s.pendingControl := rfl
@[simp] theorem State.setNZC_hostTurns (o : AluResult) (s : State) : (s.setNZC o).hostTurns = s.hostTurns := rfl

/-! Writing one flag, and what each flag reads after it. -/
@[simp] theorem State.setFlagN_flagN (b : Bool) (s : State) : (s.setFlag bitN b).flagN = b :=
  (State.flag_setFlag bitN bitN b s (by decide)).trans (if_pos (by decide))
@[simp] theorem State.setFlagN_flagV (b : Bool) (s : State) : (s.setFlag bitN b).flagV = s.flagV :=
  (State.flag_setFlag bitN bitV b s (by decide)).trans (if_neg (by decide))
@[simp] theorem State.setFlagN_flagB (b : Bool) (s : State) : (s.setFlag bitN b).flagB = s.flagB :=
  (State.flag_setFlag bitN bitB b s (by decide)).trans (if_neg (by decide))
@[simp] theorem State.setFlagN_flagD (b : Bool) (s : State) : (s.setFlag bitN b).flagD = s.flagD :=
  (State.flag_setFlag bitN bitD b s (by decide)).trans (if_neg (by decide))
@[simp] theorem State.setFlagN_flagI (b : Bool) (s : State) : (s.setFlag bitN b).flagI = s.flagI :=
  (State.flag_setFlag bitN bitI b s (by decide)).trans (if_neg (by decide))
@[simp] theorem State.setFlagN_flagZ (b : Bool) (s : State) : (s.setFlag bitN b).flagZ = s.flagZ :=
  (State.flag_setFlag bitN bitZ b s (by decide)).trans (if_neg (by decide))
@[simp] theorem State.setFlagN_flagC (b : Bool) (s : State) : (s.setFlag bitN b).flagC = s.flagC :=
  (State.flag_setFlag bitN bitC b s (by decide)).trans (if_neg (by decide))
@[simp] theorem State.setFlagV_flagN (b : Bool) (s : State) : (s.setFlag bitV b).flagN = s.flagN :=
  (State.flag_setFlag bitV bitN b s (by decide)).trans (if_neg (by decide))
@[simp] theorem State.setFlagV_flagV (b : Bool) (s : State) : (s.setFlag bitV b).flagV = b :=
  (State.flag_setFlag bitV bitV b s (by decide)).trans (if_pos (by decide))
@[simp] theorem State.setFlagV_flagB (b : Bool) (s : State) : (s.setFlag bitV b).flagB = s.flagB :=
  (State.flag_setFlag bitV bitB b s (by decide)).trans (if_neg (by decide))
@[simp] theorem State.setFlagV_flagD (b : Bool) (s : State) : (s.setFlag bitV b).flagD = s.flagD :=
  (State.flag_setFlag bitV bitD b s (by decide)).trans (if_neg (by decide))
@[simp] theorem State.setFlagV_flagI (b : Bool) (s : State) : (s.setFlag bitV b).flagI = s.flagI :=
  (State.flag_setFlag bitV bitI b s (by decide)).trans (if_neg (by decide))
@[simp] theorem State.setFlagV_flagZ (b : Bool) (s : State) : (s.setFlag bitV b).flagZ = s.flagZ :=
  (State.flag_setFlag bitV bitZ b s (by decide)).trans (if_neg (by decide))
@[simp] theorem State.setFlagV_flagC (b : Bool) (s : State) : (s.setFlag bitV b).flagC = s.flagC :=
  (State.flag_setFlag bitV bitC b s (by decide)).trans (if_neg (by decide))
@[simp] theorem State.setFlagB_flagN (b : Bool) (s : State) : (s.setFlag bitB b).flagN = s.flagN :=
  (State.flag_setFlag bitB bitN b s (by decide)).trans (if_neg (by decide))
@[simp] theorem State.setFlagB_flagV (b : Bool) (s : State) : (s.setFlag bitB b).flagV = s.flagV :=
  (State.flag_setFlag bitB bitV b s (by decide)).trans (if_neg (by decide))
@[simp] theorem State.setFlagB_flagB (b : Bool) (s : State) : (s.setFlag bitB b).flagB = b :=
  (State.flag_setFlag bitB bitB b s (by decide)).trans (if_pos (by decide))
@[simp] theorem State.setFlagB_flagD (b : Bool) (s : State) : (s.setFlag bitB b).flagD = s.flagD :=
  (State.flag_setFlag bitB bitD b s (by decide)).trans (if_neg (by decide))
@[simp] theorem State.setFlagB_flagI (b : Bool) (s : State) : (s.setFlag bitB b).flagI = s.flagI :=
  (State.flag_setFlag bitB bitI b s (by decide)).trans (if_neg (by decide))
@[simp] theorem State.setFlagB_flagZ (b : Bool) (s : State) : (s.setFlag bitB b).flagZ = s.flagZ :=
  (State.flag_setFlag bitB bitZ b s (by decide)).trans (if_neg (by decide))
@[simp] theorem State.setFlagB_flagC (b : Bool) (s : State) : (s.setFlag bitB b).flagC = s.flagC :=
  (State.flag_setFlag bitB bitC b s (by decide)).trans (if_neg (by decide))
@[simp] theorem State.setFlagD_flagN (b : Bool) (s : State) : (s.setFlag bitD b).flagN = s.flagN :=
  (State.flag_setFlag bitD bitN b s (by decide)).trans (if_neg (by decide))
@[simp] theorem State.setFlagD_flagV (b : Bool) (s : State) : (s.setFlag bitD b).flagV = s.flagV :=
  (State.flag_setFlag bitD bitV b s (by decide)).trans (if_neg (by decide))
@[simp] theorem State.setFlagD_flagB (b : Bool) (s : State) : (s.setFlag bitD b).flagB = s.flagB :=
  (State.flag_setFlag bitD bitB b s (by decide)).trans (if_neg (by decide))
@[simp] theorem State.setFlagD_flagD (b : Bool) (s : State) : (s.setFlag bitD b).flagD = b :=
  (State.flag_setFlag bitD bitD b s (by decide)).trans (if_pos (by decide))
@[simp] theorem State.setFlagD_flagI (b : Bool) (s : State) : (s.setFlag bitD b).flagI = s.flagI :=
  (State.flag_setFlag bitD bitI b s (by decide)).trans (if_neg (by decide))
@[simp] theorem State.setFlagD_flagZ (b : Bool) (s : State) : (s.setFlag bitD b).flagZ = s.flagZ :=
  (State.flag_setFlag bitD bitZ b s (by decide)).trans (if_neg (by decide))
@[simp] theorem State.setFlagD_flagC (b : Bool) (s : State) : (s.setFlag bitD b).flagC = s.flagC :=
  (State.flag_setFlag bitD bitC b s (by decide)).trans (if_neg (by decide))
@[simp] theorem State.setFlagI_flagN (b : Bool) (s : State) : (s.setFlag bitI b).flagN = s.flagN :=
  (State.flag_setFlag bitI bitN b s (by decide)).trans (if_neg (by decide))
@[simp] theorem State.setFlagI_flagV (b : Bool) (s : State) : (s.setFlag bitI b).flagV = s.flagV :=
  (State.flag_setFlag bitI bitV b s (by decide)).trans (if_neg (by decide))
@[simp] theorem State.setFlagI_flagB (b : Bool) (s : State) : (s.setFlag bitI b).flagB = s.flagB :=
  (State.flag_setFlag bitI bitB b s (by decide)).trans (if_neg (by decide))
@[simp] theorem State.setFlagI_flagD (b : Bool) (s : State) : (s.setFlag bitI b).flagD = s.flagD :=
  (State.flag_setFlag bitI bitD b s (by decide)).trans (if_neg (by decide))
@[simp] theorem State.setFlagI_flagI (b : Bool) (s : State) : (s.setFlag bitI b).flagI = b :=
  (State.flag_setFlag bitI bitI b s (by decide)).trans (if_pos (by decide))
@[simp] theorem State.setFlagI_flagZ (b : Bool) (s : State) : (s.setFlag bitI b).flagZ = s.flagZ :=
  (State.flag_setFlag bitI bitZ b s (by decide)).trans (if_neg (by decide))
@[simp] theorem State.setFlagI_flagC (b : Bool) (s : State) : (s.setFlag bitI b).flagC = s.flagC :=
  (State.flag_setFlag bitI bitC b s (by decide)).trans (if_neg (by decide))
@[simp] theorem State.setFlagZ_flagN (b : Bool) (s : State) : (s.setFlag bitZ b).flagN = s.flagN :=
  (State.flag_setFlag bitZ bitN b s (by decide)).trans (if_neg (by decide))
@[simp] theorem State.setFlagZ_flagV (b : Bool) (s : State) : (s.setFlag bitZ b).flagV = s.flagV :=
  (State.flag_setFlag bitZ bitV b s (by decide)).trans (if_neg (by decide))
@[simp] theorem State.setFlagZ_flagB (b : Bool) (s : State) : (s.setFlag bitZ b).flagB = s.flagB :=
  (State.flag_setFlag bitZ bitB b s (by decide)).trans (if_neg (by decide))
@[simp] theorem State.setFlagZ_flagD (b : Bool) (s : State) : (s.setFlag bitZ b).flagD = s.flagD :=
  (State.flag_setFlag bitZ bitD b s (by decide)).trans (if_neg (by decide))
@[simp] theorem State.setFlagZ_flagI (b : Bool) (s : State) : (s.setFlag bitZ b).flagI = s.flagI :=
  (State.flag_setFlag bitZ bitI b s (by decide)).trans (if_neg (by decide))
@[simp] theorem State.setFlagZ_flagZ (b : Bool) (s : State) : (s.setFlag bitZ b).flagZ = b :=
  (State.flag_setFlag bitZ bitZ b s (by decide)).trans (if_pos (by decide))
@[simp] theorem State.setFlagZ_flagC (b : Bool) (s : State) : (s.setFlag bitZ b).flagC = s.flagC :=
  (State.flag_setFlag bitZ bitC b s (by decide)).trans (if_neg (by decide))
@[simp] theorem State.setFlagC_flagN (b : Bool) (s : State) : (s.setFlag bitC b).flagN = s.flagN :=
  (State.flag_setFlag bitC bitN b s (by decide)).trans (if_neg (by decide))
@[simp] theorem State.setFlagC_flagV (b : Bool) (s : State) : (s.setFlag bitC b).flagV = s.flagV :=
  (State.flag_setFlag bitC bitV b s (by decide)).trans (if_neg (by decide))
@[simp] theorem State.setFlagC_flagB (b : Bool) (s : State) : (s.setFlag bitC b).flagB = s.flagB :=
  (State.flag_setFlag bitC bitB b s (by decide)).trans (if_neg (by decide))
@[simp] theorem State.setFlagC_flagD (b : Bool) (s : State) : (s.setFlag bitC b).flagD = s.flagD :=
  (State.flag_setFlag bitC bitD b s (by decide)).trans (if_neg (by decide))
@[simp] theorem State.setFlagC_flagI (b : Bool) (s : State) : (s.setFlag bitC b).flagI = s.flagI :=
  (State.flag_setFlag bitC bitI b s (by decide)).trans (if_neg (by decide))
@[simp] theorem State.setFlagC_flagZ (b : Bool) (s : State) : (s.setFlag bitC b).flagZ = s.flagZ :=
  (State.flag_setFlag bitC bitZ b s (by decide)).trans (if_neg (by decide))
@[simp] theorem State.setFlagC_flagC (b : Bool) (s : State) : (s.setFlag bitC b).flagC = b :=
  (State.flag_setFlag bitC bitC b s (by decide)).trans (if_pos (by decide))

/-! The flags after the grouped flag writes. -/
@[simp] theorem State.setNZ_flagN (v : Byte) (s : State) : (s.setNZ v).flagN = (v.getLsbD 7) := by simp [State.setNZ]
@[simp] theorem State.setNZ_flagV (v : Byte) (s : State) : (s.setNZ v).flagV = s.flagV := by simp [State.setNZ]
@[simp] theorem State.setNZ_flagB (v : Byte) (s : State) : (s.setNZ v).flagB = s.flagB := by simp [State.setNZ]
@[simp] theorem State.setNZ_flagD (v : Byte) (s : State) : (s.setNZ v).flagD = s.flagD := by simp [State.setNZ]
@[simp] theorem State.setNZ_flagI (v : Byte) (s : State) : (s.setNZ v).flagI = s.flagI := by simp [State.setNZ]
@[simp] theorem State.setNZ_flagZ (v : Byte) (s : State) : (s.setNZ v).flagZ = (v == 0x00#8) := by simp [State.setNZ]
@[simp] theorem State.setNZ_flagC (v : Byte) (s : State) : (s.setNZ v).flagC = s.flagC := by simp [State.setNZ]
@[simp] theorem State.setNVZC_flagN (o : AluResult) (s : State) : (s.setNVZC o).flagN = o.n := by simp [State.setNVZC]
@[simp] theorem State.setNVZC_flagV (o : AluResult) (s : State) : (s.setNVZC o).flagV = o.v := by simp [State.setNVZC]
@[simp] theorem State.setNVZC_flagB (o : AluResult) (s : State) : (s.setNVZC o).flagB = s.flagB := by simp [State.setNVZC]
@[simp] theorem State.setNVZC_flagD (o : AluResult) (s : State) : (s.setNVZC o).flagD = s.flagD := by simp [State.setNVZC]
@[simp] theorem State.setNVZC_flagI (o : AluResult) (s : State) : (s.setNVZC o).flagI = s.flagI := by simp [State.setNVZC]
@[simp] theorem State.setNVZC_flagZ (o : AluResult) (s : State) : (s.setNVZC o).flagZ = o.z := by simp [State.setNVZC]
@[simp] theorem State.setNVZC_flagC (o : AluResult) (s : State) : (s.setNVZC o).flagC = o.c := by simp [State.setNVZC]
@[simp] theorem State.setNZC_flagN (o : AluResult) (s : State) : (s.setNZC o).flagN = o.n := by simp [State.setNZC]
@[simp] theorem State.setNZC_flagV (o : AluResult) (s : State) : (s.setNZC o).flagV = s.flagV := by simp [State.setNZC]
@[simp] theorem State.setNZC_flagB (o : AluResult) (s : State) : (s.setNZC o).flagB = s.flagB := by simp [State.setNZC]
@[simp] theorem State.setNZC_flagD (o : AluResult) (s : State) : (s.setNZC o).flagD = s.flagD := by simp [State.setNZC]
@[simp] theorem State.setNZC_flagI (o : AluResult) (s : State) : (s.setNZC o).flagI = s.flagI := by simp [State.setNZC]
@[simp] theorem State.setNZC_flagZ (o : AluResult) (s : State) : (s.setNZC o).flagZ = o.z := by simp [State.setNZC]
@[simp] theorem State.setNZC_flagC (o : AluResult) (s : State) : (s.setNZC o).flagC = o.c := by simp [State.setNZC]

/-! The flags are bits of `P`: no other update touches them. -/
@[simp] theorem State.withA_flagN (v : Byte) (s : State) : (s.withA v).flagN = s.flagN := rfl
@[simp] theorem State.withA_flagV (v : Byte) (s : State) : (s.withA v).flagV = s.flagV := rfl
@[simp] theorem State.withA_flagB (v : Byte) (s : State) : (s.withA v).flagB = s.flagB := rfl
@[simp] theorem State.withA_flagD (v : Byte) (s : State) : (s.withA v).flagD = s.flagD := rfl
@[simp] theorem State.withA_flagI (v : Byte) (s : State) : (s.withA v).flagI = s.flagI := rfl
@[simp] theorem State.withA_flagZ (v : Byte) (s : State) : (s.withA v).flagZ = s.flagZ := rfl
@[simp] theorem State.withA_flagC (v : Byte) (s : State) : (s.withA v).flagC = s.flagC := rfl
@[simp] theorem State.withX_flagN (v : Byte) (s : State) : (s.withX v).flagN = s.flagN := rfl
@[simp] theorem State.withX_flagV (v : Byte) (s : State) : (s.withX v).flagV = s.flagV := rfl
@[simp] theorem State.withX_flagB (v : Byte) (s : State) : (s.withX v).flagB = s.flagB := rfl
@[simp] theorem State.withX_flagD (v : Byte) (s : State) : (s.withX v).flagD = s.flagD := rfl
@[simp] theorem State.withX_flagI (v : Byte) (s : State) : (s.withX v).flagI = s.flagI := rfl
@[simp] theorem State.withX_flagZ (v : Byte) (s : State) : (s.withX v).flagZ = s.flagZ := rfl
@[simp] theorem State.withX_flagC (v : Byte) (s : State) : (s.withX v).flagC = s.flagC := rfl
@[simp] theorem State.withY_flagN (v : Byte) (s : State) : (s.withY v).flagN = s.flagN := rfl
@[simp] theorem State.withY_flagV (v : Byte) (s : State) : (s.withY v).flagV = s.flagV := rfl
@[simp] theorem State.withY_flagB (v : Byte) (s : State) : (s.withY v).flagB = s.flagB := rfl
@[simp] theorem State.withY_flagD (v : Byte) (s : State) : (s.withY v).flagD = s.flagD := rfl
@[simp] theorem State.withY_flagI (v : Byte) (s : State) : (s.withY v).flagI = s.flagI := rfl
@[simp] theorem State.withY_flagZ (v : Byte) (s : State) : (s.withY v).flagZ = s.flagZ := rfl
@[simp] theorem State.withY_flagC (v : Byte) (s : State) : (s.withY v).flagC = s.flagC := rfl
@[simp] theorem State.withSp_flagN (v : Byte) (s : State) : (s.withSp v).flagN = s.flagN := rfl
@[simp] theorem State.withSp_flagV (v : Byte) (s : State) : (s.withSp v).flagV = s.flagV := rfl
@[simp] theorem State.withSp_flagB (v : Byte) (s : State) : (s.withSp v).flagB = s.flagB := rfl
@[simp] theorem State.withSp_flagD (v : Byte) (s : State) : (s.withSp v).flagD = s.flagD := rfl
@[simp] theorem State.withSp_flagI (v : Byte) (s : State) : (s.withSp v).flagI = s.flagI := rfl
@[simp] theorem State.withSp_flagZ (v : Byte) (s : State) : (s.withSp v).flagZ = s.flagZ := rfl
@[simp] theorem State.withSp_flagC (v : Byte) (s : State) : (s.withSp v).flagC = s.flagC := rfl
@[simp] theorem State.withPc_flagN (v : Addr) (s : State) : (s.withPc v).flagN = s.flagN := rfl
@[simp] theorem State.withPc_flagV (v : Addr) (s : State) : (s.withPc v).flagV = s.flagV := rfl
@[simp] theorem State.withPc_flagB (v : Addr) (s : State) : (s.withPc v).flagB = s.flagB := rfl
@[simp] theorem State.withPc_flagD (v : Addr) (s : State) : (s.withPc v).flagD = s.flagD := rfl
@[simp] theorem State.withPc_flagI (v : Addr) (s : State) : (s.withPc v).flagI = s.flagI := rfl
@[simp] theorem State.withPc_flagZ (v : Addr) (s : State) : (s.withPc v).flagZ = s.flagZ := rfl
@[simp] theorem State.withPc_flagC (v : Addr) (s : State) : (s.withPc v).flagC = s.flagC := rfl
@[simp] theorem State.withMem_flagN (v : Memory) (s : State) : (s.withMem v).flagN = s.flagN := rfl
@[simp] theorem State.withMem_flagV (v : Memory) (s : State) : (s.withMem v).flagV = s.flagV := rfl
@[simp] theorem State.withMem_flagB (v : Memory) (s : State) : (s.withMem v).flagB = s.flagB := rfl
@[simp] theorem State.withMem_flagD (v : Memory) (s : State) : (s.withMem v).flagD = s.flagD := rfl
@[simp] theorem State.withMem_flagI (v : Memory) (s : State) : (s.withMem v).flagI = s.flagI := rfl
@[simp] theorem State.withMem_flagZ (v : Memory) (s : State) : (s.withMem v).flagZ = s.flagZ := rfl
@[simp] theorem State.withMem_flagC (v : Memory) (s : State) : (s.withMem v).flagC = s.flagC := rfl
@[simp] theorem State.withWriteProtectHighRom_flagN (v : Bool) (s : State) : (s.withWriteProtectHighRom v).flagN = s.flagN := rfl
@[simp] theorem State.withWriteProtectHighRom_flagV (v : Bool) (s : State) : (s.withWriteProtectHighRom v).flagV = s.flagV := rfl
@[simp] theorem State.withWriteProtectHighRom_flagB (v : Bool) (s : State) : (s.withWriteProtectHighRom v).flagB = s.flagB := rfl
@[simp] theorem State.withWriteProtectHighRom_flagD (v : Bool) (s : State) : (s.withWriteProtectHighRom v).flagD = s.flagD := rfl
@[simp] theorem State.withWriteProtectHighRom_flagI (v : Bool) (s : State) : (s.withWriteProtectHighRom v).flagI = s.flagI := rfl
@[simp] theorem State.withWriteProtectHighRom_flagZ (v : Bool) (s : State) : (s.withWriteProtectHighRom v).flagZ = s.flagZ := rfl
@[simp] theorem State.withWriteProtectHighRom_flagC (v : Bool) (s : State) : (s.withWriteProtectHighRom v).flagC = s.flagC := rfl
@[simp] theorem State.withRamExpansion8k_flagN (v : Bool) (s : State) : (s.withRamExpansion8k v).flagN = s.flagN := rfl
@[simp] theorem State.withRamExpansion8k_flagV (v : Bool) (s : State) : (s.withRamExpansion8k v).flagV = s.flagV := rfl
@[simp] theorem State.withRamExpansion8k_flagB (v : Bool) (s : State) : (s.withRamExpansion8k v).flagB = s.flagB := rfl
@[simp] theorem State.withRamExpansion8k_flagD (v : Bool) (s : State) : (s.withRamExpansion8k v).flagD = s.flagD := rfl
@[simp] theorem State.withRamExpansion8k_flagI (v : Bool) (s : State) : (s.withRamExpansion8k v).flagI = s.flagI := rfl
@[simp] theorem State.withRamExpansion8k_flagZ (v : Bool) (s : State) : (s.withRamExpansion8k v).flagZ = s.flagZ := rfl
@[simp] theorem State.withRamExpansion8k_flagC (v : Bool) (s : State) : (s.withRamExpansion8k v).flagC = s.flagC := rfl
@[simp] theorem State.withPia_flagN (v : Pia) (s : State) : (s.withPia v).flagN = s.flagN := rfl
@[simp] theorem State.withPia_flagV (v : Pia) (s : State) : (s.withPia v).flagV = s.flagV := rfl
@[simp] theorem State.withPia_flagB (v : Pia) (s : State) : (s.withPia v).flagB = s.flagB := rfl
@[simp] theorem State.withPia_flagD (v : Pia) (s : State) : (s.withPia v).flagD = s.flagD := rfl
@[simp] theorem State.withPia_flagI (v : Pia) (s : State) : (s.withPia v).flagI = s.flagI := rfl
@[simp] theorem State.withPia_flagZ (v : Pia) (s : State) : (s.withPia v).flagZ = s.flagZ := rfl
@[simp] theorem State.withPia_flagC (v : Pia) (s : State) : (s.withPia v).flagC = s.flagC := rfl
@[simp] theorem State.withIrqLine_flagN (v : Bool) (s : State) : (s.withIrqLine v).flagN = s.flagN := rfl
@[simp] theorem State.withIrqLine_flagV (v : Bool) (s : State) : (s.withIrqLine v).flagV = s.flagV := rfl
@[simp] theorem State.withIrqLine_flagB (v : Bool) (s : State) : (s.withIrqLine v).flagB = s.flagB := rfl
@[simp] theorem State.withIrqLine_flagD (v : Bool) (s : State) : (s.withIrqLine v).flagD = s.flagD := rfl
@[simp] theorem State.withIrqLine_flagI (v : Bool) (s : State) : (s.withIrqLine v).flagI = s.flagI := rfl
@[simp] theorem State.withIrqLine_flagZ (v : Bool) (s : State) : (s.withIrqLine v).flagZ = s.flagZ := rfl
@[simp] theorem State.withIrqLine_flagC (v : Bool) (s : State) : (s.withIrqLine v).flagC = s.flagC := rfl
@[simp] theorem State.withNmiPending_flagN (v : Bool) (s : State) : (s.withNmiPending v).flagN = s.flagN := rfl
@[simp] theorem State.withNmiPending_flagV (v : Bool) (s : State) : (s.withNmiPending v).flagV = s.flagV := rfl
@[simp] theorem State.withNmiPending_flagB (v : Bool) (s : State) : (s.withNmiPending v).flagB = s.flagB := rfl
@[simp] theorem State.withNmiPending_flagD (v : Bool) (s : State) : (s.withNmiPending v).flagD = s.flagD := rfl
@[simp] theorem State.withNmiPending_flagI (v : Bool) (s : State) : (s.withNmiPending v).flagI = s.flagI := rfl
@[simp] theorem State.withNmiPending_flagZ (v : Bool) (s : State) : (s.withNmiPending v).flagZ = s.flagZ := rfl
@[simp] theorem State.withNmiPending_flagC (v : Bool) (s : State) : (s.withNmiPending v).flagC = s.flagC := rfl
@[simp] theorem State.withCycles_flagN (v : Nat) (s : State) : (s.withCycles v).flagN = s.flagN := rfl
@[simp] theorem State.withCycles_flagV (v : Nat) (s : State) : (s.withCycles v).flagV = s.flagV := rfl
@[simp] theorem State.withCycles_flagB (v : Nat) (s : State) : (s.withCycles v).flagB = s.flagB := rfl
@[simp] theorem State.withCycles_flagD (v : Nat) (s : State) : (s.withCycles v).flagD = s.flagD := rfl
@[simp] theorem State.withCycles_flagI (v : Nat) (s : State) : (s.withCycles v).flagI = s.flagI := rfl
@[simp] theorem State.withCycles_flagZ (v : Nat) (s : State) : (s.withCycles v).flagZ = s.flagZ := rfl
@[simp] theorem State.withCycles_flagC (v : Nat) (s : State) : (s.withCycles v).flagC = s.flagC := rfl
@[simp] theorem State.withPendingControl_flagN (v : List ControlMove) (s : State) : (s.withPendingControl v).flagN = s.flagN := rfl
@[simp] theorem State.withPendingControl_flagV (v : List ControlMove) (s : State) : (s.withPendingControl v).flagV = s.flagV := rfl
@[simp] theorem State.withPendingControl_flagB (v : List ControlMove) (s : State) : (s.withPendingControl v).flagB = s.flagB := rfl
@[simp] theorem State.withPendingControl_flagD (v : List ControlMove) (s : State) : (s.withPendingControl v).flagD = s.flagD := rfl
@[simp] theorem State.withPendingControl_flagI (v : List ControlMove) (s : State) : (s.withPendingControl v).flagI = s.flagI := rfl
@[simp] theorem State.withPendingControl_flagZ (v : List ControlMove) (s : State) : (s.withPendingControl v).flagZ = s.flagZ := rfl
@[simp] theorem State.withPendingControl_flagC (v : List ControlMove) (s : State) : (s.withPendingControl v).flagC = s.flagC := rfl
@[simp] theorem State.withHostTurns_flagN (v : List (List HostMove)) (s : State) : (s.withHostTurns v).flagN = s.flagN := rfl
@[simp] theorem State.withHostTurns_flagV (v : List (List HostMove)) (s : State) : (s.withHostTurns v).flagV = s.flagV := rfl
@[simp] theorem State.withHostTurns_flagB (v : List (List HostMove)) (s : State) : (s.withHostTurns v).flagB = s.flagB := rfl
@[simp] theorem State.withHostTurns_flagD (v : List (List HostMove)) (s : State) : (s.withHostTurns v).flagD = s.flagD := rfl
@[simp] theorem State.withHostTurns_flagI (v : List (List HostMove)) (s : State) : (s.withHostTurns v).flagI = s.flagI := rfl
@[simp] theorem State.withHostTurns_flagZ (v : List (List HostMove)) (s : State) : (s.withHostTurns v).flagZ = s.flagZ := rfl
@[simp] theorem State.withHostTurns_flagC (v : List (List HostMove)) (s : State) : (s.withHostTurns v).flagC = s.flagC := rfl
@[simp] theorem State.addCycles_flagN (n : Nat) (s : State) : (s.addCycles n).flagN = s.flagN := rfl
@[simp] theorem State.addCycles_flagV (n : Nat) (s : State) : (s.addCycles n).flagV = s.flagV := rfl
@[simp] theorem State.addCycles_flagB (n : Nat) (s : State) : (s.addCycles n).flagB = s.flagB := rfl
@[simp] theorem State.addCycles_flagD (n : Nat) (s : State) : (s.addCycles n).flagD = s.flagD := rfl
@[simp] theorem State.addCycles_flagI (n : Nat) (s : State) : (s.addCycles n).flagI = s.flagI := rfl
@[simp] theorem State.addCycles_flagZ (n : Nat) (s : State) : (s.addCycles n).flagZ = s.flagZ := rfl
@[simp] theorem State.addCycles_flagC (n : Nat) (s : State) : (s.addCycles n).flagC = s.flagC := rfl

/-! The flags after the whole of `P` is written. -/
@[simp] theorem State.writeP_flagN (v : Byte) (s : State) : (s.writeP v).flagN = v.getLsbD 7 := by
  simp [State.flagN, State.flag, bitN]
@[simp] theorem State.writeP_flagV (v : Byte) (s : State) : (s.writeP v).flagV = v.getLsbD 6 := by
  simp [State.flagV, State.flag, bitV]
@[simp] theorem State.writeP_flagB (v : Byte) (s : State) : (s.writeP v).flagB = v.getLsbD 4 := by
  simp [State.flagB, State.flag, bitB]
@[simp] theorem State.writeP_flagD (v : Byte) (s : State) : (s.writeP v).flagD = v.getLsbD 3 := by
  simp [State.flagD, State.flag, bitD]
@[simp] theorem State.writeP_flagI (v : Byte) (s : State) : (s.writeP v).flagI = v.getLsbD 2 := by
  simp [State.flagI, State.flag, bitI]
@[simp] theorem State.writeP_flagZ (v : Byte) (s : State) : (s.writeP v).flagZ = v.getLsbD 1 := by
  simp [State.flagZ, State.flag, bitZ]
@[simp] theorem State.writeP_flagC (v : Byte) (s : State) : (s.writeP v).flagC = v.getLsbD 0 := by
  simp [State.flagC, State.flag, bitC]

/-- Bit 5 of `P` reads 1 in every copy (R18). -/
theorem State.readP_bit5 (s : State) : s.readP.getLsbD 5 = true := by simp [State.readP]

/-- Writing a bit other than bit 5 keeps bit 5 of the stored `P`. -/
theorem State.setFlag_bit5 (k : Nat) (b : Bool) (s : State) (hk : k < 8) (h5 : k ≠ 5) :
    (s.setFlag k b).p.getLsbD 5 = s.p.getLsbD 5 :=
  (getLsbD_putBit s.p k 5 b hk).trans (if_neg (Ne.symm h5))

end Sys2Proof.Machine
end

