-- ==== Sys2Proof/Laws/Memory.lean ====
section
/-! SUPPORT. The laws of the backing array: a read after a write, what a write leaves alone, and that every memory
operation keeps the canonical form `Memory.wf`. The read laws need no premise on the list. -/

namespace Sys2Proof.Machine

theorem Memory.lookup_erase (m : Memory) (k j : Nat) :
    lookup (erase m k) j = if j = k then unlisted else lookup m j := by
  induction m with
  | nil => by_cases h : j = k <;> simp [erase, lookup, h]
  | cons c cs ih =>
    by_cases hc : c.1 = k
    · by_cases h : j = k
      · simpa [erase, hc, h] using ih
      · have : ¬ c.1 = j := fun e => h (e.symm.trans hc)
        simpa [erase, hc, h, lookup, Ne.symm h] using ih
    · by_cases h : c.1 = j
      · have : ¬ j = k := fun e => hc (h.trans e)
        simp [erase, lookup, h, this]
      · rw [erase, if_neg hc]
        simpa [lookup, h] using ih

theorem Memory.lookup_insert_self (m : Memory) (k : Nat) (v : Byte) (h : ∀ c ∈ m, c.1 ≠ k) :
    lookup (insert m k v) k = v := by
  induction m with
  | nil => simp [insert, lookup]
  | cons c cs ih =>
    by_cases hc : k < c.1
    · simp [insert, hc, lookup]
    · have h1 : c.1 ≠ k := h c (by simp)
      simpa [insert, hc, lookup, h1] using ih fun d hd => h d (by simp [hd])

theorem Memory.lookup_insert_other (m : Memory) (k j : Nat) (v : Byte) (h : j ≠ k) :
    lookup (insert m k v) j = lookup m j := by
  induction m with
  | nil => simp [insert, lookup, Ne.symm h]
  | cons c cs ih =>
    by_cases hc : k < c.1
    · simp [insert, hc, lookup, Ne.symm h]
    · rw [insert, if_neg hc]
      by_cases h1 : c.1 = j <;> simp [lookup, h1, ih]

theorem Memory.mem_erase_ne (m : Memory) (k : Nat) : ∀ c ∈ erase m k, c.1 ≠ k := by
  induction m with
  | nil => simp [erase]
  | cons c cs ih =>
    by_cases hc : c.1 = k
    · simpa [erase, hc] using ih
    · simpa [erase, hc] using ih

/-- A read after a write, at any address. -/
theorem Memory.read_write (m : Memory) (a b : Addr) (v : Byte) :
    read (write m a v) b = if b = a then v else read m b := by
  have hab : b.toNat = a.toNat ↔ b = a := BitVec.toNat_inj
  unfold read write
  by_cases hv : v = unlisted
  · by_cases h : b = a
    · simp [hv, h, lookup_erase]
    · simp [hv, h, lookup_erase, hab]
  · by_cases h : b = a
    · simpa [hv, h] using lookup_insert_self _ _ _ (mem_erase_ne m a.toNat)
    · rw [if_neg hv, lookup_insert_other _ _ _ _ (mt hab.mp h), lookup_erase]
      simp [h, hab]

@[simp] theorem Memory.read_write_self (m : Memory) (a : Addr) (v : Byte) : read (write m a v) a = v := by
  simp [read_write]

theorem Memory.read_write_other (m : Memory) (a b : Addr) (v : Byte) (h : b ≠ a) :
    read (write m a v) b = read m b := by simp [read_write, h]

theorem Memory.wfFrom_mono {lo lo' : Nat} (h : lo ≤ lo') : ∀ {m : Memory}, wfFrom lo' m = true → wfFrom lo m = true
  | [], _ => rfl
  | c :: cs, hm => by
    simp only [wfFrom, Bool.and_eq_true, decide_eq_true_eq] at hm ⊢
    exact ⟨⟨⟨h.trans hm.1.1.1, hm.1.1.2⟩, hm.1.2⟩, hm.2⟩

theorem Memory.wfFrom_erase (k : Nat) : ∀ (lo : Nat) (m : Memory), wfFrom lo m = true → wfFrom lo (erase m k) = true
  | _, [], _ => rfl
  | lo, c :: cs, hm => by
    simp only [wfFrom, Bool.and_eq_true, decide_eq_true_eq] at hm
    have ih := wfFrom_erase k _ cs hm.2
    by_cases hc : c.1 = k
    · simpa [erase, hc] using wfFrom_mono (show lo ≤ k + 1 by omega) (by simpa [hc] using ih)
    · simp only [erase, hc, if_false, wfFrom, Bool.and_eq_true, decide_eq_true_eq]
      exact ⟨hm.1, ih⟩

theorem Memory.wfFrom_insert (k : Nat) (v : Byte) (hk : k < 65536) (hv : v ≠ unlisted) :
    ∀ (lo : Nat) (m : Memory), lo ≤ k → (∀ c ∈ m, c.1 ≠ k) → wfFrom lo m = true → wfFrom lo (insert m k v) = true
  | lo, [], hlo, _, _ => by simp [insert, wfFrom, hlo, hk, hv]
  | lo, c :: cs, hlo, hne, hm => by
    simp only [wfFrom, Bool.and_eq_true, decide_eq_true_eq] at hm
    have h1 : c.1 ≠ k := hne c (by simp)
    by_cases hc : k < c.1
    · simp only [insert, hc, if_true, wfFrom, Bool.and_eq_true, decide_eq_true_eq]
      exact ⟨⟨⟨hlo, hk⟩, hv⟩, ⟨⟨hc, hm.1.1.2⟩, hm.1.2⟩, hm.2⟩
    · simp only [insert, hc, if_false, wfFrom, Bool.and_eq_true, decide_eq_true_eq]
      exact ⟨hm.1, wfFrom_insert k v hk hv _ cs (by omega) (fun d hd => hne d (by simp [hd])) hm.2⟩

/-- A write keeps the canonical form. -/
theorem Memory.wf_write (m : Memory) (a : Addr) (v : Byte) (h : wf m = true) : wf (write m a v) = true := by
  unfold write
  have he := wfFrom_erase a.toNat 0 m h
  by_cases hv : v = unlisted
  · simpa [hv, wf] using he
  · simpa [hv, wf] using wfFrom_insert a.toNat v a.isLt hv 0 _ (Nat.zero_le _) (mem_erase_ne m _) he

/-- An image's cells followed by a canonical rest are canonical. -/
theorem Memory.wfFrom_imageCells {m : Memory} : ∀ (vs : List Byte) (lo k : Nat), lo ≤ k → k + vs.length ≤ 65536 →
    wfFrom (k + vs.length) m = true → wfFrom lo (imageCells k vs ++ m) = true
  | [], _, _, hlo, _, hm => wfFrom_mono hlo hm
  | v :: vs, lo, k, hlo, hk, hm => by
    rw [List.length_cons, show k + (vs.length + 1) = k + 1 + vs.length by omega] at hk hm
    by_cases hv : v = unlisted
    · simpa [imageCells, hv] using wfFrom_imageCells vs lo (k + 1) (by omega) hk hm
    · simpa [imageCells, hv, wfFrom, hlo, show k < 65536 by omega] using
        wfFrom_imageCells vs (k + 1) (k + 1) le_rfl hk hm

theorem Memory.wfFrom_kept {m' : Memory} (h' : wfFrom 0xFF00 m' = true) : ∀ (m : Memory) (lo n : Nat),
    wfFrom lo m = true → (n ≤ lo ∨ n ≤ 0xF000) → n ≤ 0xFF00 → wfFrom n (kept m ++ m') = true
  | [], _, _, _, _, hn => wfFrom_mono hn h'
  | c :: cs, lo, n, hm, hlo, hn => by
    simp only [wfFrom, Bool.and_eq_true, decide_eq_true_eq] at hm
    by_cases hc : 0xF000 ≤ c.1 ∧ c.1 < 0xFF00
    · have ih := wfFrom_kept h' cs (c.1 + 1) (c.1 + 1) hm.2 (.inl le_rfl) (by omega)
      simpa [kept, hc, wfFrom, ih, hm.1.1.2, hm.1.2] using show n ≤ c.1 by omega
    · simpa only [kept, hc, if_false] using wfFrom_kept h' cs (c.1 + 1) n hm.2 (by omega) hn

/-- Memory reset keeps the canonical form, whatever the images. -/
theorem Memory.wf_reset (r : Roms) (m : Memory) (h : wf m = true) : wf (reset r m) = true := by
  refine wfFrom_imageCells _ 0 0xE000 (by decide) (by simp) ?_
  refine wfFrom_kept ?_ m 0 _ h (.inr (by simp)) (by simp)
  simpa using wfFrom_imageCells (m := []) r.monitor.toList 0xFF00 0xFF00 le_rfl (by simp) rfl

/-- What an image's cells, followed by a rest, read as: a byte of the image that is listed, else the rest. -/
theorem Memory.lookup_imageCells (m : Memory) (j : Nat) : ∀ (vs : List Byte) (k : Nat),
    lookup (imageCells k vs ++ m) j =
      if k ≤ j ∧ vs.getD (j - k) unlisted ≠ unlisted then vs.getD (j - k) unlisted else lookup m j
  | [], k => by simp [imageCells]
  | v :: vs, k => by
    have ih := lookup_imageCells m j vs (k + 1)
    by_cases h : j = k
    · subst h
      by_cases hv : v = unlisted
      · simpa [imageCells, hv] using ih
      · simp [imageCells, hv, lookup]
    · have : lookup (imageCells k (v :: vs) ++ m) j = lookup (imageCells (k + 1) vs ++ m) j := by
        by_cases hv : v = unlisted
        · simp [imageCells, hv]
        · simp [imageCells, hv, lookup, Ne.symm h]
      rw [this, ih]
      by_cases hk : k ≤ j
      · rw [show j - k = j - (k + 1) + 1 by omega, List.getD_cons_succ]
        simp [hk, show k + 1 ≤ j by omega]
      · simp [hk, show ¬ k + 1 ≤ j by omega]

theorem Memory.lookup_kept (m m' : Memory) (j : Nat) (h' : 0xF000 ≤ j → j < 0xFF00 → lookup m' j = unlisted) :
    lookup (kept m ++ m') j = if 0xF000 ≤ j ∧ j < 0xFF00 then lookup m j else lookup m' j := by
  induction m with
  | nil =>
    by_cases h : 0xF000 ≤ j ∧ j < 0xFF00
    · simpa [kept, h, lookup] using h' h.1 h.2
    · simp [kept, h]
  | cons c cs ih =>
    by_cases hc : 0xF000 ≤ c.1 ∧ c.1 < 0xFF00
    · by_cases h : c.1 = j
      · subst h; simp [kept, hc, lookup]
      · simpa [kept, hc, lookup, h] using ih
    · by_cases h : c.1 = j
      · subst h; simpa [kept, hc, lookup] using ih
      · simpa [kept, hc, lookup, h] using ih

/-- What memory reads as after memory reset (R155). -/
theorem Memory.lookup_reset (r : Roms) (m : Memory) (j : Nat) (hj : j < 65536) :
    lookup (reset r m) j =
      if j < 0xE000 then 0x00#8
      else if j < 0xF000 then r.basic.toList.getD (j - 0xE000) 0x00#8
      else if j < 0xFF00 then lookup m j
      else r.monitor.toList.getD (j - 0xFF00) 0x00#8 := by
  have hu : unlisted = 0x00#8 := rfl
  have hmon : lookup (imageCells 0xFF00 r.monitor.toList) j =
      if 0xFF00 ≤ j then r.monitor.toList.getD (j - 0xFF00) 0x00#8 else 0x00#8 := by
    have := lookup_imageCells [] j r.monitor.toList 0xFF00
    rw [List.append_nil] at this
    rw [this, hu]
    by_cases h1 : 0xFF00 ≤ j
    · by_cases h2 : r.monitor.toList.getD (j - 0xFF00) 0x00#8 = 0x00#8
      · rw [if_neg (fun c => c.2 h2), if_pos h1, h2]; rfl
      · rw [if_pos ⟨h1, h2⟩, if_pos h1]
    · rw [if_neg (fun c => h1 c.1), if_neg h1]; rfl
  have hk := lookup_kept m (imageCells 0xFF00 r.monitor.toList) j (fun _ h => by
    rw [hmon, if_neg (by omega)]; rfl)
  have out : 0xF000 ≤ j → r.basic.toList.getD (j - 0xE000) 0x00#8 = 0x00#8 := fun h => by
    rw [List.getD_eq_default]; simp; omega
  rw [reset, lookup_imageCells, hk, hmon, hu]
  by_cases h1 : j < 0xE000
  · rw [if_neg (by omega), if_neg (by omega), if_neg (by omega), if_pos h1]
  · by_cases h2 : j < 0xF000
    · rw [if_neg h1, if_pos h2]
      by_cases h3 : r.basic.toList.getD (j - 0xE000) 0x00#8 = 0x00#8
      · rw [if_neg (fun c => c.2 h3), if_neg (by omega), if_neg (by omega), h3]
      · rw [if_pos ⟨by omega, h3⟩]
    · rw [if_neg (fun c => c.2 (out (by omega))), if_neg h1, if_neg h2]
      by_cases h3 : j < 0xFF00
      · rw [if_pos ⟨by omega, h3⟩, if_pos h3]
      · rw [if_neg (by omega), if_neg h3, if_pos (by omega)]

theorem Memory.imageCells_unlisted : ∀ (n k : Nat), imageCells k (List.replicate n unlisted) = []
  | 0, _ => rfl
  | n + 1, k => by simpa [List.replicate_succ, imageCells] using imageCells_unlisted n (k + 1)

/-- Memory reset with images full of zeros lists nothing but the bytes it keeps. -/
theorem Memory.reset_blank (m : Memory) : reset Roms.blank m = kept m := by
  have h : ∀ n, (Vector.replicate n (0x00#8 : Byte)).toList = List.replicate n unlisted := fun n => by simp [unlisted]
  simp only [reset, Roms.blank, h, imageCells_unlisted, List.append_nil, List.nil_append]

/-- A bulk load keeps the canonical form. -/
theorem Memory.wf_storeFrom : ∀ (vs : List Byte) (k : Nat) (m : Memory), wf m = true → wf (storeFrom m k vs) = true
  | [], _, _, h => h
  | v :: vs, k, m, h => by
    by_cases hk : k < 65536
    · simpa [storeFrom, hk] using wf_storeFrom vs (k + 1) _ (wf_write m _ v h)
    · simpa [storeFrom, hk] using h

theorem Memory.wf_loadImage (policy : LoadPolicy) (bytes : List Byte) (start : Addr) (m : Memory) (h : wf m = true) :
    wf (loadImage policy bytes start m) = true := by
  cases policy
  · exact wf_storeFrom bytes _ m h
  · by_cases hl : start.toNat + bytes.length ≤ 65536
    · simpa [loadImage, hl] using wf_storeFrom bytes _ m h
    · simpa [loadImage, hl] using h


/-- The memory of the state after reset is canonical. -/
theorem reset_mem_wf : Memory.wf State.reset.mem = true := rfl

end Sys2Proof.Machine
end

