-- ==== Sys2Proof/Laws/Ops.lean ====
section
/-! SUPPORT. What each shared operation can do: first with an idle host, as an equation for its result; then with any
host, as what it keeps. -/

namespace Sys2Proof.Machine

/-! ### The host's turn -/

theorem hostTurn_idle {s : State} (h : s.hostIdle) : hostTurn s = s := by
  unfold State.hostIdle at h
  simp [hostTurn, h]

/-! ### The bus -/

theorem isPia_iff (a : Addr) :
    isPia a = true ↔ a = 0xD010#16 ∨ a = 0xD011#16 ∨ a = 0xD012#16 ∨ a = 0xD013#16 := by
  simp only [isPia, Bool.and_eq_true, decide_eq_true_eq]
  constructor
  · rintro ⟨h1, h2⟩
    bv_omega
  · rintro (rfl | rfl | rfl | rfl) <;> decide

theorem Pia.read_snd (a : Addr) (p : Pia) : (p.read a).2 = p.afterRead a := by
  unfold Pia.read Pia.afterRead
  split_ifs <;> rfl

theorem State.withPia_self (s : State) : s.withPia s.pia = s := rfl

/-- A byte read: what `peek` says, and the keyboard side effect at 0xD010 alone (R24, R39). -/
theorem busRead_eq (a : Addr) (s : State) : busRead a s = (s.peek a, s.withPia (s.pia.afterRead a)) := by
  unfold busRead State.peek
  by_cases h : isPia a = true
  · simp [h, Pia.read_snd]
  · have : a ≠ 0xD010#16 := fun e => h ((isPia_iff a).mpr (Or.inl e))
    simp [h, Pia.afterRead, this, State.withPia_self]

theorem memRead_idle {s : State} (h : s.hostIdle) (a : Addr) :
    memRead a s = (s.peek a, s.withPia (s.pia.afterRead a)) := by
  rw [memRead, hostTurn_idle h, busRead_eq]

theorem memWrite_idle {s : State} (h : s.hostIdle) (a : Addr) (v : Byte) : memWrite a v s = busWrite a v s := by
  rw [memWrite, hostTurn_idle h]

theorem Pia.afterRead_of_ne {a : Addr} (h : a ≠ 0xD010#16) (p : Pia) : p.afterRead a = p := by
  simp [Pia.afterRead, h]

theorem State.peek_of_not_pia {a : Addr} (h : isPia a = false) (s : State) : s.peek a = s.mem.read a := by
  simp [State.peek, h]

/-- A byte read outside the PIA changes nothing. -/
theorem memRead_ordinary {s : State} (h : s.hostIdle) {a : Addr} (ha : isPia a = false) :
    memRead a s = (s.mem.read a, s) := by
  have h1 : a ≠ 0xD010#16 := by rintro rfl; exact absurd ha (by decide)
  rw [memRead_idle h, Pia.afterRead_of_ne h1, State.withPia_self, State.peek_of_not_pia ha]

/-! ### Pages zero and one, and the vectors, lie outside the PIA and are never write-protected -/

theorem isPia_zeroPage (z : Byte) : isPia (zeroPage z) = false := by revert z; decide
theorem isPia_stackAddr (z : Byte) : isPia (stackAddr z) = false := by revert z; decide
theorem not_writeProtected_stackAddr (s : State) (z : Byte) : s.writeProtected (stackAddr z) = false := by
  have h1 : decide (0xFF00#16 ≤ stackAddr z) = false := by revert z; decide
  have h2 : decide (0x2000#16 ≤ stackAddr z) = false := by revert z; decide
  simp only [State.writeProtected, h1, h2, Bool.and_false, Bool.false_and, Bool.or_false]

/-! ### Bytes of an address -/

theorem toNat_addrOf (h l : Byte) : (addrOf h l).toNat = h.toNat * 256 + l.toNat := by
  show (h ++ l : BitVec (8 + 8)).toNat = _
  rw [BitVec.toNat_append, ← Nat.shiftLeft_add_eq_or_of_lt l.isLt, Nat.shiftLeft_eq]

theorem toNat_lo8 (w : Addr) : (lo8 w).toNat = w.toNat % 256 := by
  simp [lo8, BitVec.extractLsb'_toNat]

theorem toNat_hi8 (w : Addr) : (hi8 w).toNat = w.toNat / 256 := by
  have := w.isLt
  simp only [hi8, BitVec.extractLsb'_toNat, Nat.shiftRight_eq_div_pow]
  omega

@[simp] theorem lo8_addrOf (h l : Byte) : lo8 (addrOf h l) = l := by
  apply BitVec.eq_of_toNat_eq
  have := l.isLt
  rw [toNat_lo8, toNat_addrOf]; omega

@[simp] theorem hi8_addrOf (h l : Byte) : hi8 (addrOf h l) = h := by
  apply BitVec.eq_of_toNat_eq
  have := l.isLt
  rw [toNat_hi8, toNat_addrOf]; omega

@[simp] theorem addrOf_hi8_lo8 (w : Addr) : addrOf (hi8 w) (lo8 w) = w := by
  apply BitVec.eq_of_toNat_eq
  rw [toNat_addrOf, toNat_hi8, toNat_lo8]; omega

theorem stackAddr_inj {y z : Byte} : stackAddr y = stackAddr z ↔ y = z :=
  ⟨fun h => by simpa [stackAddr] using congrArg lo8 h, fun h => h ▸ rfl⟩

/-! ### The stack, the two-byte reads and the handlers, with an idle host -/

theorem push8_idle {s : State} (h : s.hostIdle) (v : Byte) :
    push8 v s = (s.withMem (s.mem.write (stackAddr s.sp) v)).withSp (s.sp - 1#8) := by
  simp only [push8, memWrite_idle h, busWrite, isPia_stackAddr, not_writeProtected_stackAddr]
  rfl

theorem pull8_idle {s : State} (h : s.hostIdle) :
    pull8 s = (s.mem.read (stackAddr (s.sp + 1#8)), s.withSp (s.sp + 1#8)) := by
  have h' : (s.withSp (s.sp + 1#8)).hostIdle := h
  simp only [pull8, State.withSp_sp, memRead_ordinary h' (isPia_stackAddr _), State.withSp_mem]

theorem readTwo_idle {s : State} (h : s.hostIdle) {lo hi : Addr} (hl : isPia lo = false) (hh : isPia hi = false) :
    readTwo lo hi s = (addrOf (s.mem.read hi) (s.mem.read lo), s) := by
  simp only [readTwo, memRead_ordinary h hl, memRead_ordinary h hh]

theorem readZp16_idle {s : State} (h : s.hostIdle) (z : Byte) : readZp16 z s = (s.zpWord z, s) :=
  readTwo_idle h (isPia_zeroPage _) (isPia_zeroPage _)

theorem push16_idle {s : State} (h : s.hostIdle) (w : Addr) :
    push16 w s = (s.withMem ((s.mem.write (stackAddr s.sp) (hi8 w)).write (stackAddr (s.sp - 1#8)) (lo8 w))).withSp
      (s.sp - 1#8 - 1#8) := by
  rw [push16, push8_idle h]
  exact push8_idle (s := (s.withMem (s.mem.write (stackAddr s.sp) (hi8 w))).withSp (s.sp - 1#8)) h (lo8 w)

theorem pull16_idle {s : State} (h : s.hostIdle) :
    pull16 s = (addrOf (s.mem.read (stackAddr (s.sp + 1#8 + 1#8))) (s.mem.read (stackAddr (s.sp + 1#8))),
      s.withSp (s.sp + 1#8 + 1#8)) := by
  simp only [pull16, pull8_idle h, pull8_idle (show State.hostIdle (s.withSp (s.sp + 1#8)) from h)]
  rfl

/-- The memory an entry leaves: PC high, PC low and the status, one below the other (R133). -/
def entryMem (e : Entry) (s : State) : Memory :=
  ((s.mem.write (stackAddr s.sp) (hi8 s.pc)).write (stackAddr (s.sp - 1#8)) (lo8 s.pc)).write
    (stackAddr (s.sp - 1#8 - 1#8)) (e.status s)

theorem isPia_vector (e : Entry) : isPia e.vector = false ∧ isPia (e.vector + 1#16) = false := by
  cases e <;> decide

/-- Taking an exception with an idle host (R94, R129, R130, R133). -/
theorem enterHandler_idle {s : State} (h : s.hostIdle) (e : Entry) :
    enterHandler e s =
      (e.acknowledge (((s.withMem (entryMem e s)).withSp (s.sp - 1#8 - 1#8 - 1#8)).setFlag bitI true)).withPc
        (addrOf ((entryMem e s).read (e.vector + 1#16)) ((entryMem e s).read e.vector)) := by
  have h1 : (push16 s.pc s).hostIdle := by rw [push16_idle h]; exact h
  have hs : e.status (push16 s.pc s) = e.status s := by rw [push16_idle h]; cases e <;> rfl
  have h2 : push8 (e.status s) (push16 s.pc s) = (s.withMem (entryMem e s)).withSp (s.sp - 1#8 - 1#8 - 1#8) := by
    rw [push8_idle h1, push16_idle h]; rfl
  have h3 : (e.acknowledge (((s.withMem (entryMem e s)).withSp (s.sp - 1#8 - 1#8 - 1#8)).setFlag bitI true)).hostIdle := by
    cases e <;> exact h
  simp only [enterHandler, hs, h2, memRead16, readTwo_idle h3 (isPia_vector e).1 (isPia_vector e).2]
  cases e <;> rfl

/-- Returning from an exception with an idle host (R95). -/
theorem returnFromHandler_idle {s : State} (h : s.hostIdle) :
    returnFromHandler s =
      ((s.withSp (s.sp + 1#8 + 1#8 + 1#8)).writeP (s.mem.read (stackAddr (s.sp + 1#8)))).withPc
        (addrOf (s.mem.read (stackAddr (s.sp + 1#8 + 1#8 + 1#8))) (s.mem.read (stackAddr (s.sp + 1#8 + 1#8)))) := by
  have h1 : ((s.withSp (s.sp + 1#8)).writeP (s.mem.read (stackAddr (s.sp + 1#8)))).hostIdle := h
  simp only [returnFromHandler, pull8_idle h, pull16_idle h1]
  rfl

/-! ### What a host move, and so every access, keeps whatever the host does -/

/-- The registers of the CPU and the cycle count are as before: no host move of R148 to R151 writes them. -/
def CpuKept (s t : State) : Prop :=
  t.a = s.a ∧ t.x = s.x ∧ t.y = s.y ∧ t.sp = s.sp ∧ t.pc = s.pc ∧ t.p = s.p ∧ t.cycles = s.cycles

theorem CpuKept.refl (s : State) : CpuKept s s := ⟨rfl, rfl, rfl, rfl, rfl, rfl, rfl⟩

theorem CpuKept.trans {s t u : State} (h1 : CpuKept s t) (h2 : CpuKept t u) : CpuKept s u := by
  obtain ⟨a1, a2, a3, a4, a5, a6, a7⟩ := h1
  obtain ⟨b1, b2, b3, b4, b5, b6, b7⟩ := h2
  exact ⟨b1.trans a1, b2.trans a2, b3.trans a3, b4.trans a4, b5.trans a5, b6.trans a6, b7.trans a7⟩

theorem hostMove_cpuKept (m : HostMove) (s : State) : CpuKept s (hostMove m s) := by
  cases m <;> exact CpuKept.refl s

theorem hostMoves_cpuKept : ∀ (ms : List HostMove) (s : State), CpuKept s (hostMoves ms s)
  | [], s => CpuKept.refl s
  | m :: ms, s => (hostMove_cpuKept m s).trans (hostMoves_cpuKept ms _)

theorem hostTurn_cpuKept (s : State) : CpuKept s (hostTurn s) := by
  unfold hostTurn
  split
  · exact CpuKept.refl s
  · exact (show CpuKept s (s.withHostTurns _) from CpuKept.refl s).trans (hostMoves_cpuKept _ _)

theorem busWrite_cpuKept (a : Addr) (v : Byte) (s : State) : CpuKept s (busWrite a v s) := by
  unfold busWrite
  split_ifs <;> exact CpuKept.refl s

theorem memRead_cpuKept (a : Addr) (s : State) : CpuKept s (memRead a s).2 := by
  rw [memRead, busRead_eq]
  exact (hostTurn_cpuKept s).trans (CpuKept.refl _)

theorem memWrite_cpuKept (a : Addr) (v : Byte) (s : State) : CpuKept s (memWrite a v s) :=
  (hostTurn_cpuKept s).trans (busWrite_cpuKept a v _)

/-! ### No access changes the ROM images, whatever the host does -/

theorem hostMoves_roms : ∀ (ms : List HostMove) (s : State), (hostMoves ms s).roms = s.roms
  | [], _ => rfl
  | m :: ms, s => (hostMoves_roms ms _).trans (by cases m <;> rfl)

theorem hostTurn_roms (s : State) : (hostTurn s).roms = s.roms := by
  unfold hostTurn
  split
  · rfl
  · exact hostMoves_roms _ _

theorem memRead_roms (a : Addr) (s : State) : (memRead a s).2.roms = s.roms := by
  rw [memRead, busRead_eq]
  exact hostTurn_roms s

theorem memWrite_roms (a : Addr) (v : Byte) (s : State) : (memWrite a v s).roms = s.roms := by
  unfold memWrite busWrite
  split_ifs <;> exact hostTurn_roms s

/-! ### The invariant, whatever the host does -/

theorem hostMove_inv {m : HostMove} {s : State} (h : s.Inv) : (hostMove m s).Inv := by
  cases m <;> first | exact h | exact ⟨Memory.wf_write _ _ _ h.1, h.2⟩

theorem hostMoves_inv : ∀ {ms : List HostMove} {s : State}, s.Inv → (hostMoves ms s).Inv
  | [], _, h => h
  | _ :: ms, _, h => hostMoves_inv (ms := ms) (hostMove_inv h)

theorem hostTurn_inv {s : State} (h : s.Inv) : (hostTurn s).Inv := by
  unfold hostTurn
  split
  · exact h
  · exact hostMoves_inv (show (s.withHostTurns _).Inv from h)

theorem memRead_inv {a : Addr} {s : State} (h : s.Inv) : (memRead a s).2.Inv := by
  rw [memRead, busRead_eq]
  exact hostTurn_inv h

theorem memWrite_inv {a : Addr} {v : Byte} {s : State} (h : s.Inv) : (memWrite a v s).Inv := by
  have h' := hostTurn_inv h
  unfold memWrite busWrite
  split_ifs
  · exact h'
  · exact h'
  · exact ⟨Memory.wf_write _ _ _ h'.1, h'.2⟩

end Sys2Proof.Machine
end

