-- ==== Sys2Proof/Laws/Operands.lean ====
section
/-! SUPPORT. What the operand forms can do: the resolver, an operand read, a store and a read-modify-write, with an idle
host as equations, with any host as what they keep. -/

namespace Sys2Proof.Machine

/-- The resolver with an idle host: the rules' address, and the page-crossing charge (R47 to R51, R53, R54). -/
theorem resolve_idle {s : State} (h : s.hostIdle) (m : AddrMode) :
    resolve m s = (effectiveAddress m s, s.addCycles (crossing m s)) := by
  cases m <;> simp only [resolve, indexedRead, readZp16_idle h] <;> rfl

/-- An operand read with an idle host. -/
theorem readSource_idle {s : State} (h : s.hostIdle) (r : Source) :
    readSource r s = (s.sourceByte r, (s.withPia (s.sourcePia r)).withCycles (s.sourceCycles r)) := by
  cases r with
  | imm v => rfl
  | mem m =>
    have h' : (s.addCycles (crossing m s)).hostIdle := h
    simp only [readSource, State.sourceByte, State.sourcePia, State.sourceCycles, resolve_idle h, memRead_idle h']
    rfl

/-- An instruction that reads one operand byte, with an idle host. -/
theorem onSource_idle {s : State} (h : s.hostIdle) (r : Source) (f : Byte → State → State) :
    onSource r f s = .next (f (s.sourceByte r) ((s.withPia (s.sourcePia r)).withCycles (s.sourceCycles r))) := by
  simp only [onSource, readSource_idle h]

/-- What one byte write leaves of memory and the PIA (R25 to R28). -/
theorem busWrite_stored (a : Addr) (v : Byte) (s : State) : Stored a v s.pia s (busWrite a v s) := by
  unfold Stored busWrite
  by_cases hp : isPia a = true
  · simp [hp]
  · by_cases hw : s.writeProtected a = true
    · simp [hp, hw]
    · simp [hp, hw, Memory.read_write]
      intro b hb h
      exact absurd h hb

/-- What one byte write keeps of the rest. -/
theorem busWrite_kept (a : Addr) (v : Byte) (s : State) :
    CpuKept s (busWrite a v s) ∧ InputsKept s (busWrite a v s) := by
  refine ⟨busWrite_cpuKept a v s, ?_⟩
  unfold busWrite
  split_ifs <;> exact ⟨rfl, rfl, rfl, rfl, rfl, rfl, rfl⟩

/-- A store with an idle host. -/
theorem storeAt_idle {s : State} (h : s.hostIdle) (m : AddrMode) (v : State → Byte) :
    storeAt m v s = .next (busWrite (effectiveAddress m s) (v (s.addCycles (crossing m s))) (s.addCycles (crossing m s))) := by
  simp only [storeAt, resolve_idle h, memWrite_idle (show (s.addCycles (crossing m s)).hostIdle from h)]

/-- A read-modify-write with an idle host, where setting the flags keeps the host idle. -/
theorem modifyAt_idle {s : State} (h : s.hostIdle) (m : AddrMode) (f : Byte → State → Byte × State)
    (hf : ∀ v t, (f v t).2.hostTurns = t.hostTurns) :
    modifyAt m f s = .next
      (busWrite (effectiveAddress m s)
        (f (s.peek (effectiveAddress m s))
          ((s.addCycles (crossing m s)).withPia (s.pia.afterRead (effectiveAddress m s)))).1
        (f (s.peek (effectiveAddress m s))
          ((s.addCycles (crossing m s)).withPia (s.pia.afterRead (effectiveAddress m s)))).2) := by
  have h' : (s.addCycles (crossing m s)).hostIdle := h
  simp only [modifyAt, resolve_idle h, memRead_idle h']
  refine congrArg Host.Outcome.next (memWrite_idle ?_ _ _)
  exact (hf _ _).trans h

/-! ### The invariant, whatever the host does -/

/-- The invariant speaks of memory and the stored `P` only. -/
theorem Inv_of_eq {s t : State} (h : s.Inv) (hm : t.mem = s.mem) (hp : t.p = s.p) : t.Inv :=
  ⟨hm ▸ h.1, hp ▸ h.2⟩

theorem readTwo_inv {lo hi : Addr} {s : State} (h : s.Inv) : (readTwo lo hi s).2.Inv :=
  memRead_inv (memRead_inv h)

theorem resolve_inv {m : AddrMode} {s : State} (h : s.Inv) : (resolve m s).2.Inv := by
  cases m <;> first | exact h | exact readTwo_inv h

theorem readSource_inv {r : Source} {s : State} (h : s.Inv) : (readSource r s).2.Inv := by
  cases r with
  | imm v => exact h
  | mem m => exact memRead_inv (resolve_inv h)

theorem push8_inv {v : Byte} {s : State} (h : s.Inv) : (push8 v s).Inv :=
  Inv_of_eq (memWrite_inv h) rfl rfl

theorem pull8_inv {s : State} (h : s.Inv) : (pull8 s).2.Inv :=
  memRead_inv (show (s.withSp (s.sp + 1#8)).Inv from h)

theorem pull16_inv {s : State} (h : s.Inv) : (pull16 s).2.Inv := pull8_inv (pull8_inv h)

theorem setFlag_inv {k : Nat} {b : Bool} {s : State} (h : s.Inv) (hk : k < 8) (h5 : k ≠ 5) : (s.setFlag k b).Inv :=
  ⟨h.1, (s.setFlag_bit5 k b hk h5).trans h.2⟩

theorem setNZ_inv {v : Byte} {s : State} (h : s.Inv) : (s.setNZ v).Inv :=
  setFlag_inv (setFlag_inv h (by decide) (by decide)) (by decide) (by decide)

theorem setNZC_inv {o : AluResult} {s : State} (h : s.Inv) : (s.setNZC o).Inv :=
  setFlag_inv (setFlag_inv (setFlag_inv h (by decide) (by decide)) (by decide) (by decide)) (by decide) (by decide)

theorem setNVZC_inv {o : AluResult} {s : State} (h : s.Inv) : (s.setNVZC o).Inv :=
  setFlag_inv (setFlag_inv (setFlag_inv (setFlag_inv h (by decide) (by decide)) (by decide) (by decide)) (by decide)
    (by decide)) (by decide) (by decide)

theorem writeP_inv {v : Byte} {s : State} (h : s.Inv) : (s.writeP v).Inv := by
  refine ⟨h.1, ?_⟩
  simp

theorem fetch8_inv {s : State} (h : s.Inv) : (fetch8 s).2.Inv :=
  Inv_of_eq (memRead_inv h) rfl rfl

theorem enterHandler_inv {e : Entry} {s : State} (h : s.Inv) : (enterHandler e s).Inv := by
  have h1 : ((push8 (e.status (push16 s.pc s)) (push16 s.pc s)).setFlag bitI true).Inv :=
    setFlag_inv (push8_inv (push8_inv (push8_inv h))) (by decide) (by decide)
  have h2 : (e.acknowledge ((push8 (e.status (push16 s.pc s)) (push16 s.pc s)).setFlag bitI true)).Inv := by
    cases e <;> exact h1
  exact Inv_of_eq (readTwo_inv h2) rfl rfl

theorem returnFromHandler_inv {s : State} (h : s.Inv) : (returnFromHandler s).Inv :=
  Inv_of_eq (pull16_inv (writeP_inv (pull8_inv h))) rfl rfl

end Sys2Proof.Machine
end

