-- ==== Sys2Proof/Laws/PerInstr.lean ====
section
/-! SUPPORT. A fact about every instruction as syntax, one lemma per constructor. -/

namespace Sys2Proof.Laws.EncodedLength

/-- An instruction is one opcode byte followed by zero, one or two bytes (R40). -/
def Statement (i : Instr) : Prop := 1 ≤ (encode i).length ∧ (encode i).length ≤ 3

theorem ofCheck {i : Instr} (h : (Nat.ble 1 (encode i).length && Nat.ble (encode i).length 3) = true) : Statement i := by
  rw [Bool.and_eq_true] at h
  exact ⟨Nat.le_of_ble_eq_true h.1, Nat.le_of_ble_eq_true h.2⟩

theorem lda (m : ReadOp) : Statement (.lda m) := by cases m <;> exact ofCheck rfl
theorem ldx (m : LdxOp) : Statement (.ldx m) := by cases m <;> exact ofCheck rfl
theorem ldy (m : LdyOp) : Statement (.ldy m) := by cases m <;> exact ofCheck rfl
theorem sta (m : StaOp) : Statement (.sta m) := by cases m <;> exact ofCheck rfl
theorem stx (m : StxOp) : Statement (.stx m) := by cases m <;> exact ofCheck rfl
theorem sty (m : StyOp) : Statement (.sty m) := by cases m <;> exact ofCheck rfl
theorem adc (m : ReadOp) : Statement (.adc m) := by cases m <;> exact ofCheck rfl
theorem sbc (m : ReadOp) : Statement (.sbc m) := by cases m <;> exact ofCheck rfl
theorem cmp (m : ReadOp) : Statement (.cmp m) := by cases m <;> exact ofCheck rfl
theorem cpx (m : IndexCmpOp) : Statement (.cpx m) := by cases m <;> exact ofCheck rfl
theorem cpy (m : IndexCmpOp) : Statement (.cpy m) := by cases m <;> exact ofCheck rfl
theorem and (m : ReadOp) : Statement (.and m) := by cases m <;> exact ofCheck rfl
theorem ora (m : ReadOp) : Statement (.ora m) := by cases m <;> exact ofCheck rfl
theorem eor (m : ReadOp) : Statement (.eor m) := by cases m <;> exact ofCheck rfl
theorem asl (m : ShiftOp) : Statement (.asl m) := by cases m <;> exact ofCheck rfl
theorem lsr (m : ShiftOp) : Statement (.lsr m) := by cases m <;> exact ofCheck rfl
theorem rol (m : ShiftOp) : Statement (.rol m) := by cases m <;> exact ofCheck rfl
theorem ror (m : ShiftOp) : Statement (.ror m) := by cases m <;> exact ofCheck rfl
theorem inc (m : IncOp) : Statement (.inc m) := by cases m <;> exact ofCheck rfl
theorem dec (m : IncOp) : Statement (.dec m) := by cases m <;> exact ofCheck rfl
theorem inx : Statement .inx := ofCheck rfl
theorem iny : Statement .iny := ofCheck rfl
theorem dex : Statement .dex := ofCheck rfl
theorem dey : Statement .dey := ofCheck rfl
theorem bit (m : BitOp) : Statement (.bit m) := by cases m <;> exact ofCheck rfl
theorem pha : Statement .pha := ofCheck rfl
theorem php : Statement .php := ofCheck rfl
theorem pla : Statement .pla := ofCheck rfl
theorem plp : Statement .plp := ofCheck rfl
theorem brk : Statement .brk := ofCheck rfl
theorem rti : Statement .rti := ofCheck rfl
theorem jmp (t : JmpOp) : Statement (.jmp t) := by cases t <;> exact ofCheck rfl
theorem jsr (a : Addr) : Statement (.jsr a) := ofCheck rfl
theorem rts : Statement .rts := ofCheck rfl
theorem bpl (d : Byte) : Statement (.bpl d) := ofCheck rfl
theorem bmi (d : Byte) : Statement (.bmi d) := ofCheck rfl
theorem bvc (d : Byte) : Statement (.bvc d) := ofCheck rfl
theorem bvs (d : Byte) : Statement (.bvs d) := ofCheck rfl
theorem bcc (d : Byte) : Statement (.bcc d) := ofCheck rfl
theorem bcs (d : Byte) : Statement (.bcs d) := ofCheck rfl
theorem bne (d : Byte) : Statement (.bne d) := ofCheck rfl
theorem beq (d : Byte) : Statement (.beq d) := ofCheck rfl
theorem tax : Statement .tax := ofCheck rfl
theorem txa : Statement .txa := ofCheck rfl
theorem tay : Statement .tay := ofCheck rfl
theorem tya : Statement .tya := ofCheck rfl
theorem txs : Statement .txs := ofCheck rfl
theorem tsx : Statement .tsx := ofCheck rfl
theorem clc : Statement .clc := ofCheck rfl
theorem sec : Statement .sec := ofCheck rfl
theorem cli : Statement .cli := ofCheck rfl
theorem sei : Statement .sei := ofCheck rfl
theorem clv : Statement .clv := ofCheck rfl
theorem cld : Statement .cld := ofCheck rfl
theorem sed : Statement .sed := ofCheck rfl
theorem nop : Statement .nop := ofCheck rfl
theorem unop1 (op : Byte) : Statement (.unop1 op) := ofCheck rfl
theorem unop2 (op : Byte) : Statement (.unop2 op) := ofCheck rfl
theorem unop3 (op : Byte) : Statement (.unop3 op) := ofCheck rfl
theorem uhang (op : Byte) : Statement (.uhang op) := ofCheck rfl

end Sys2Proof.Laws.EncodedLength
end

