-- ==== Sys2Proof/Laws/Step.lean ====
section
/-! SUPPORT. What the fetch, the fetch boundary, the handlers and the common forms of the instructions do, once each. -/

namespace Sys2Proof.Machine

/-! ### The fetch -/

/-- One fetched byte with an idle host (R42). -/
theorem fetch8_idle {s : State} (h : s.hostIdle) :
    fetch8 s = (s.peek s.pc, (s.withPia (s.pia.afterRead s.pc)).withPc (s.pc + 1#16)) := by
  simp only [fetch8, memRead_idle h]
  rfl

/-- One byte fetched outside the PIA changes PC only. -/
theorem fetch8_ordinary {s : State} (h : s.hostIdle) (hp : isPia s.pc = false) :
    fetch8 s = (s.mem.read s.pc, s.withPc (s.pc + 1#16)) := by
  simp only [fetch8, memRead_ordinary h hp]

theorem charge_next (n : Nat) (t : State) : charge n (.next t) = .next (t.addCycles n) := rfl

/-! ### Taking an exception -/

/-- What each byte of memory reads as after an entry. -/
theorem entryMem_read (e : Entry) (s : State) (b : Addr) :
    (entryMem e s).read b =
      if b = stackAddr (s.sp - 1#8 - 1#8) then e.status s
      else if b = stackAddr (s.sp - 1#8) then lo8 s.pc
      else if b = stackAddr s.sp then hi8 s.pc
      else s.mem.read b := by
  simp only [entryMem, Memory.read_write]

/-- What an entry leaves of everything but PC, with an idle host (R94, R129, R130). -/
theorem enterHandler_frame {s : State} (h : s.hostIdle) (e : Entry) :
    (enterHandler e s).mem = entryMem e s ∧ (enterHandler e s).sp = s.sp - 1#8 - 1#8 - 1#8 ∧
    (enterHandler e s).p = putBit s.p bitI true ∧
    (enterHandler e s).a = s.a ∧ (enterHandler e s).x = s.x ∧ (enterHandler e s).y = s.y ∧
    (enterHandler e s).pia = s.pia ∧ (enterHandler e s).cycles = s.cycles ∧
    (enterHandler e s).writeProtectHighRom = s.writeProtectHighRom ∧
    (enterHandler e s).ramExpansion8k = s.ramExpansion8k ∧ (enterHandler e s).irqLine = s.irqLine ∧
    (enterHandler e s).nmiPending = (if e = .nmi then false else s.nmiPending) ∧
    (enterHandler e s).pendingControl = s.pendingControl ∧ (enterHandler e s).hostTurns = s.hostTurns ∧
    (enterHandler e s).roms = s.roms := by
  rw [enterHandler_idle h]
  cases e <;> simp [Entry.acknowledge, State.setFlag]

theorem enterHandler_flagI {s : State} (h : s.hostIdle) (e : Entry) : (enterHandler e s).flagI = true := by
  rw [enterHandler_idle h]
  cases e <;> simp [Entry.acknowledge]

/-! ### The fetch boundary -/

theorem serviceIrq_masked {s : State} (h : s.irqLine = true → s.flagI = true) : serviceIrq s = s := by
  unfold serviceIrq
  rw [if_neg]
  intro hc
  simp only [Bool.and_eq_true, Bool.not_eq_true'] at hc
  rw [h hc.1] at hc
  exact absurd hc.2 (by decide)

theorem serviceIrq_taken {s : State} (h : s.irqLine = true) (hi : s.flagI = false) :
    serviceIrq s = (enterHandler .irq s).addCycles Config.irqCycles := by
  simp [serviceIrq, h, hi]

theorem serviceNmi_none {s : State} (h : s.nmiPending = false) : serviceNmi s = s := by
  simp [serviceNmi, h]

theorem serviceNmi_taken {s : State} (h : s.nmiPending = true) :
    serviceNmi s = (enterHandler .nmi s).addCycles Config.nmiCycles := by
  simp [serviceNmi, h]

theorem serviceIrq_idle {s : State} (h : s.hostIdle) : (serviceIrq s).hostIdle := by
  unfold serviceIrq
  split
  · exact (enterHandler_frame h .irq).2.2.2.2.2.2.2.2.2.2.2.2.2.1.trans h
  · exact h

theorem drainControl_nil {s : State} (h : s.pendingControl = []) : drainControl s = s := by
  unfold drainControl
  rw [h]
  cases s
  cases h
  rfl

/-- With an idle host and no control move waiting, a boundary is the two services (R127, R131). -/
theorem boundary_idle {s : State} (h : s.hostIdle) (hp : s.pendingControl = []) :
    boundary s = serviceNmi (serviceIrq s) := by
  rw [boundary, hostTurn_idle h, drainControl_nil hp, hostTurn_idle (serviceIrq_idle h)]

/-- Where nothing comes before the fetch, a boundary changes nothing. -/
theorem boundary_atFetch {s : State} (h : s.atFetch) : boundary s = s := by
  obtain ⟨h1, h2, h3, h4⟩ := h
  rw [boundary_idle h1 h2, serviceIrq_masked h3, serviceNmi_none h4]

/-- The control moves of a host leave the interrupt inputs, the host's coming moves and the ROM images. -/
theorem controlMoves_inputs : ∀ (ms : List ControlMove) (s : State),
    (controlMoves ms s).irqLine = s.irqLine ∧ (controlMoves ms s).nmiPending = s.nmiPending ∧
    (controlMoves ms s).hostTurns = s.hostTurns ∧ (controlMoves ms s).roms = s.roms
  | [], _ => ⟨rfl, rfl, rfl, rfl⟩
  | m :: ms, s => by
    obtain ⟨h1, h2, h3, h4⟩ := controlMoves_inputs ms (controlMove m s)
    have h0 : (controlMove m s).irqLine = s.irqLine ∧ (controlMove m s).nmiPending = s.nmiPending ∧
        (controlMove m s).hostTurns = s.hostTurns ∧ (controlMove m s).roms = s.roms := by
      cases m <;> exact ⟨rfl, rfl, rfl, rfl⟩
    exact ⟨h1.trans h0.1, h2.trans h0.2.1, h3.trans h0.2.2.1, h4.trans h0.2.2.2⟩

/-! ### Machine reset -/

/-- A byte of a ROM image, read from its list. -/
theorem rom_getD {n : Nat} (v : Vector Byte n) (i : Nat) (h : i < n) : v.toList.getD i 0x00#8 = v[i] := by
  rw [List.getD_eq_getElem _ _ (by simpa using h)]
  simp

/-- What machine reset leaves of everything but PC (R154, R155, R145, R157). -/
theorem machineReset_frame (s : State) :
    (machineReset s).mem = s.mem.reset s.roms ∧ (machineReset s).pia = Pia.reset ∧ (machineReset s).sp = 0xFF#8 ∧
    (machineReset s).p = putBit s.p bitI true ∧
    (machineReset s).a = s.a ∧ (machineReset s).x = s.x ∧ (machineReset s).y = s.y ∧ InputsKept s (machineReset s) := by
  simp [machineReset, cpuReset, State.setFlag, InputsKept]

/-- PC after machine reset: the word the monitor image has at 0xFC, low byte first (R157, R33). -/
theorem machineReset_pc (s : State) : (machineReset s).pc = addrOf s.roms.monitor[0xFD] s.roms.monitor[0xFC] := by
  have e : ∀ k, k < 256 → (s.mem.reset s.roms).lookup (0xFF00 + k) = s.roms.monitor.toList.getD k 0x00#8 := fun k hk => by
    rw [Memory.lookup_reset _ _ _ (by omega), if_neg (by omega), if_neg (by omega), if_neg (by omega),
      Nat.add_sub_cancel_left]
  show addrOf ((s.mem.reset s.roms).lookup (0xFF00 + 0xFD)) ((s.mem.reset s.roms).lookup (0xFF00 + 0xFC)) = _
  rw [e _ (by decide), e _ (by decide), rom_getD _ _ (by decide), rom_getD _ _ (by decide)]

/-- Nothing comes before the fetch of a placed instruction. -/
theorem placeInstr_atFetch (bytes : List Byte) (s : State) : (placeInstr bytes s).atFetch := by
  refine ⟨rfl, rfl, fun h => ?_, rfl⟩
  have h' : (s.irqLine && s.flagI) = true := h
  exact (Bool.and_eq_true _ _ ▸ h' : _ ∧ _).2

/-! ### The common forms of the instructions -/

/-- Two byte reads with an idle host, wherever they go. -/
theorem readTwo_peek {s : State} (h : s.hostIdle) (p q : Addr) :
    readTwo p q s = (addrOf ((s.withPia (s.pia.afterRead p)).peek q) (s.peek p),
      s.withPia ((s.pia.afterRead p).afterRead q)) := by
  have h1 : (s.withPia (s.pia.afterRead p)).hostIdle := h
  simp only [readTwo, memRead_idle h, memRead_idle h1]
  rfl

/-- A branch goes on with PC and the cycle count changed at most (R99). -/
theorem branchIf_next (cond : Bool) (d : Byte) (s : State) :
    branchIf cond d s = .next (if cond then
      (s.addCycles (branchPenalty s.pc (branchTarget d s))).withPc (branchTarget d s) else s) := by
  cases cond <;> rfl

/-- A store at a mode without a page-crossing charge: what it writes and what it keeps (R63 to R65). -/
theorem storeAt_kept {s : State} (h : s.hostIdle) (m : AddrMode) (hx : crossing m s = 0) (f : State → Byte) :
    ∃ t, storeAt m f s = .next t ∧ Stored (resolve m s).1 (f s) s.pia s t ∧ CpuKept s t ∧ InputsKept s t := by
  have e : s.addCycles (crossing m s) = s := by
    rw [hx]
    rfl
  refine ⟨_, storeAt_idle h m f, ?_⟩
  rw [e, resolve_idle h]
  exact ⟨busWrite_stored _ _ _, busWrite_kept _ _ _⟩

/-- A read-modify-write at such a mode, where `f` works on `P` alone: what it writes and what it keeps (R79 to R84). -/
theorem modifyAt_kept {s : State} (h : s.hostIdle) (m : AddrMode) (hx : crossing m s = 0)
    (f : Byte → State → Byte × State) (hf : ∀ v t, f v t = ((f v t).1, t.withP (f v t).2.p)) :
    ∃ t, modifyAt m f s = .next t ∧
      t.p = (f (s.peek (resolve m s).1) (s.withPia (s.pia.afterRead (resolve m s).1))).2.p ∧
      Stored (resolve m s).1 (f (s.peek (resolve m s).1) (s.withPia (s.pia.afterRead (resolve m s).1))).1
        (s.pia.afterRead (resolve m s).1) s t ∧
      RegsKept s t ∧ t.cycles = s.cycles ∧ InputsKept s t := by
  have e : s.addCycles (crossing m s) = s := by
    rw [hx]
    rfl
  have hf2 : ∀ v t, (f v t).2 = t.withP (f v t).2.p := fun v t => congrArg Prod.snd (hf v t)
  refine ⟨_, modifyAt_idle h m f (fun v t => by rw [hf2]; rfl), ?_⟩
  rw [e, resolve_idle h]
  dsimp only
  have hu := hf2 (s.peek (effectiveAddress m s)) (s.withPia (s.pia.afterRead (effectiveAddress m s)))
  generalize f (s.peek (effectiveAddress m s)) (s.withPia (s.pia.afterRead (effectiveAddress m s))) = u at *
  obtain ⟨v, w⟩ := u
  dsimp only at *
  rw [hu]
  generalize w.p = p
  obtain ⟨⟨c1, c2, c3, c4, c5, c6, c7⟩, hi⟩ := busWrite_kept (effectiveAddress m s) v
    ((s.withPia (s.pia.afterRead (effectiveAddress m s))).withP p)
  obtain ⟨s1, s2, s3⟩ := busWrite_stored (effectiveAddress m s) v
    ((s.withPia (s.pia.afterRead (effectiveAddress m s))).withP p)
  exact ⟨c6, ⟨s1, s2, s3⟩, ⟨c1, c2, c3, c4, c5⟩, c7, hi⟩

/-! ### The flags the common forms set -/

theorem flag_setFlag_other {k j : Nat} (hk : k < 8) (h : j ≠ k) (b : Bool) (s : State) :
    (s.setFlag k b).flag j = s.flag j := (State.flag_setFlag k j b s hk).trans (if_neg h)

theorem setNZ_flagsKept (v : Byte) (s : State) : FlagsKept [bitZ, bitN] s (s.setNZ v) := by
  intro j h
  simp only [List.mem_cons, List.not_mem_nil, or_false, not_or] at h
  exact (flag_setFlag_other (by decide) h.2 _ _).trans (flag_setFlag_other (by decide) h.1 _ _)

theorem setNZ_NZOf (v : Byte) (s : State) : NZOf v (s.setNZ v) := by
  have h1 : ∀ v : Byte, (v == 0x00#8) = decide (v.toNat = 0) := by decide
  have h2 : ∀ v : Byte, v.getLsbD 7 = decide (128 ≤ v.toNat) := by decide
  exact ⟨(h1 v) ▸ State.setNZ_flagZ v s, (h2 v) ▸ State.setNZ_flagN v s⟩

theorem setNZC_flagsKept (o : AluResult) (s : State) : FlagsKept [bitN, bitZ, bitC] s (s.setNZC o) := by
  intro j h
  simp only [List.mem_cons, List.not_mem_nil, or_false, not_or] at h
  exact (flag_setFlag_other (by decide) h.2.2 _ _).trans
    ((flag_setFlag_other (by decide) h.2.1 _ _).trans (flag_setFlag_other (by decide) h.1 _ _))

theorem setNVZC_flagsKept (o : AluResult) (s : State) : FlagsKept [bitN, bitV, bitZ, bitC] s (s.setNVZC o) := by
  intro j h
  simp only [List.mem_cons, List.not_mem_nil, or_false, not_or] at h
  obtain ⟨h1, h2, h3, h4⟩ := h
  exact ((flag_setFlag_other (by decide) h4 _ _).trans (flag_setFlag_other (by decide) h3 _ _)).trans
    ((flag_setFlag_other (by decide) h2 _ _).trans (flag_setFlag_other (by decide) h1 _ _))

/-! ### What the accesses keep whatever the host does -/

theorem readTwo_cpuKept (lo hi : Addr) (s : State) : CpuKept s (readTwo lo hi s).2 :=
  (memRead_cpuKept lo s).trans (memRead_cpuKept hi _)

/-- Resolving keeps the registers and `P`; it can charge a cycle. -/
theorem resolve_regsKept (m : AddrMode) (s : State) :
    RegsKept s (resolve m s).2 ∧ (resolve m s).2.p = s.p := by
  have k : ∀ lo hi, RegsKept s (readTwo lo hi s).2 ∧ (readTwo lo hi s).2.p = s.p := fun lo hi => by
    obtain ⟨h1, h2, h3, h4, h5, h6, -⟩ := readTwo_cpuKept lo hi s
    exact ⟨⟨h1, h2, h3, h4, h5⟩, h6⟩
  cases m <;> first | exact ⟨⟨rfl, rfl, rfl, rfl, rfl⟩, rfl⟩ | exact k _ _

theorem readSource_regsKept (r : Source) (s : State) :
    RegsKept s (readSource r s).2 ∧ (readSource r s).2.p = s.p := by
  cases r with
  | imm v => exact ⟨⟨rfl, rfl, rfl, rfl, rfl⟩, rfl⟩
  | mem m =>
    obtain ⟨⟨h1, h2, h3, h4, h5⟩, h6⟩ := resolve_regsKept m s
    obtain ⟨g1, g2, g3, g4, g5, g6, -⟩ := memRead_cpuKept (resolve m s).1 (resolve m s).2
    exact ⟨⟨g1.trans h1, g2.trans h2, g3.trans h3, g4.trans h4, g5.trans h5⟩, g6.trans h6⟩

theorem onSource_inv {r : Source} {f : Byte → State → State} {s t : State}
    (hf : ∀ v u, State.Inv u → State.Inv (f v u)) (h : s.Inv) (e : onSource r f s = .next t) : t.Inv := by
  cases e
  exact hf _ _ (readSource_inv h)

theorem storeAt_inv {m : AddrMode} {v : State → Byte} {s t : State} (h : s.Inv) (e : storeAt m v s = .next t) :
    t.Inv := by
  cases e
  exact memWrite_inv (resolve_inv h)

theorem modifyAt_inv {m : AddrMode} {f : Byte → State → Byte × State} {s t : State}
    (hf : ∀ v u, State.Inv u → State.Inv (f v u).2) (h : s.Inv) (e : modifyAt m f s = .next t) : t.Inv := by
  cases e
  exact memWrite_inv (hf _ _ (memRead_inv (resolve_inv h)))

end Sys2Proof.Machine
end

