-- ==== Sys2Proof/Tests/Slice0.lean ====
section
/-! SUPPORT. The model's own tests: what `WellFormed` refuses, words written out from R41, one step of an instruction at a
time against the rows of spec/95_test_vectors.md, and for each statement that has hypotheses a state that meets them. -/

namespace Sys2Proof.Tests

open Sys2Proof Sys2Proof.Machine

/-- The start state of the rows of spec/95_test_vectors.md. -/
def start : State := { State.reset with pc := 0x0200#16, p := 0x20#8 }

/-- Bytes put into memory from an address on. -/
def put (a : Addr) (bs : List Byte) (s : State) : State := s.withMem (placeBytes bs a s.mem)

/-- Whether one step goes on and the state it leads to passes a check. -/
def after (s : State) (check : State → Bool) : Bool :=
  match step s with
  | .next t => check t
  | .fault _ => false
  | .refused _ => false

/-! ### WellFormed: an ill-formed term for each check -/

theorem test_wellFormed_refuses_documented_unop1 : Instr.wellFormed (.unop1 0xEA#8) = false := by decide
theorem test_wellFormed_refuses_wrong_class_unop1 : Instr.wellFormed (.unop1 0x80#8) = false := by decide
theorem test_wellFormed_refuses_unop2 : Instr.wellFormed (.unop2 0x1A#8) = false := by decide
theorem test_wellFormed_refuses_unop3 : Instr.wellFormed (.unop3 0x02#8) = false := by decide
theorem test_wellFormed_refuses_uhang : Instr.wellFormed (.uhang 0x0C#8) = false := by decide
theorem test_wellFormed_accepts :
    Instr.wellFormed (.unop1 0xFA#8) = true ∧ Instr.wellFormed (.unop2 0xEB#8) = true ∧
    Instr.wellFormed (.unop3 0x9E#8) = true ∧ Instr.wellFormed (.uhang 0xF2#8) = true ∧
    Instr.wellFormed (.lda (.imm 0xFF#8)) = true := by decide

/-! ### Decode: words written out from the matrix of R41 and the classes of R122, every constructor once -/

theorem test_decode_loads_stores :
    decode [0xB1#8, 0x20#8] = .ok (.lda (.indy 0x20#8)) [] ∧ decode [0xBE#8, 0x34#8, 0x12#8] = .ok (.ldx (.absy 0x1234#16)) [] ∧
    decode [0xBC#8, 0x34#8, 0x12#8] = .ok (.ldy (.absx 0x1234#16)) [] ∧ decode [0x81#8, 0x20#8] = .ok (.sta (.indx 0x20#8)) [] ∧
    decode [0x96#8, 0x10#8] = .ok (.stx (.zpy 0x10#8)) [] ∧ decode [0x94#8, 0xF0#8] = .ok (.sty (.zpx 0xF0#8)) [] := by decide

theorem test_decode_arith_compare :
    decode [0x79#8, 0x01#8, 0x02#8] = .ok (.adc (.absy 0x0201#16)) [] ∧ decode [0xE1#8, 0x44#8] = .ok (.sbc (.indx 0x44#8)) [] ∧
    decode [0xD5#8, 0x10#8] = .ok (.cmp (.zpx 0x10#8)) [] ∧ decode [0xE4#8, 0x10#8] = .ok (.cpx (.zp 0x10#8)) [] ∧
    decode [0xCC#8, 0x34#8, 0x12#8] = .ok (.cpy (.abs 0x1234#16)) [] := by decide

theorem test_decode_logic_shift :
    decode [0x3D#8, 0x00#8, 0x80#8] = .ok (.and (.absx 0x8000#16)) [] ∧ decode [0x01#8, 0x02#8] = .ok (.ora (.indx 0x02#8)) [] ∧
    decode [0x5D#8, 0x34#8, 0x12#8] = .ok (.eor (.absx 0x1234#16)) [] ∧ decode [0x0A#8] = .ok (.asl .acc) [] ∧
    decode [0x56#8, 0xF0#8] = .ok (.lsr (.zpx 0xF0#8)) [] ∧ decode [0x2E#8, 0x34#8, 0x12#8] = .ok (.rol (.abs 0x1234#16)) [] ∧
    decode [0x7E#8, 0xFF#8, 0x12#8] = .ok (.ror (.absxw 0x12FF#16)) [] := by decide

theorem test_decode_incdec_bit :
    decode [0xEE#8, 0x34#8, 0x12#8] = .ok (.inc (.abs 0x1234#16)) [] ∧ decode [0xD6#8, 0x10#8] = .ok (.dec (.zpx 0x10#8)) [] ∧
    decode [0xE8#8] = .ok .inx [] ∧ decode [0xC8#8] = .ok .iny [] ∧ decode [0xCA#8] = .ok .dex [] ∧
    decode [0x88#8] = .ok .dey [] ∧ decode [0x24#8, 0x10#8] = .ok (.bit (.zp 0x10#8)) [] := by decide

theorem test_decode_stack_system :
    decode [0x48#8] = .ok .pha [] ∧ decode [0x08#8] = .ok .php [] ∧ decode [0x68#8] = .ok .pla [] ∧
    decode [0x28#8] = .ok .plp [] ∧ decode [0x00#8, 0xEA#8] = .ok .brk [] ∧ decode [0x40#8] = .ok .rti [] := by decide

theorem test_decode_jump_branch :
    decode [0x6C#8, 0xFF#8, 0x12#8] = .ok (.jmp (.ind 0x12FF#16)) [] ∧ decode [0x20#8, 0x00#8, 0x04#8] = .ok (.jsr 0x0400#16) [] ∧
    decode [0x60#8] = .ok .rts [] ∧ decode [0x10#8, 0x05#8] = .ok (.bpl 0x05#8) [] ∧ decode [0x30#8, 0xFB#8] = .ok (.bmi 0xFB#8) [] ∧
    decode [0x50#8, 0x02#8] = .ok (.bvc 0x02#8) [] ∧ decode [0x70#8, 0x02#8] = .ok (.bvs 0x02#8) [] ∧
    decode [0x90#8, 0x7F#8] = .ok (.bcc 0x7F#8) [] ∧ decode [0xB0#8, 0x80#8] = .ok (.bcs 0x80#8) [] ∧
    decode [0xD0#8, 0xFD#8] = .ok (.bne 0xFD#8) [] ∧ decode [0xF0#8, 0xFE#8] = .ok (.beq 0xFE#8) [] := by decide

theorem test_decode_transfer_flag_nop :
    decode [0xAA#8] = .ok .tax [] ∧ decode [0x8A#8] = .ok .txa [] ∧ decode [0xA8#8] = .ok .tay [] ∧ decode [0x98#8] = .ok .tya [] ∧
    decode [0x9A#8] = .ok .txs [] ∧ decode [0xBA#8] = .ok .tsx [] ∧ decode [0x18#8] = .ok .clc [] ∧ decode [0x38#8] = .ok .sec [] ∧
    decode [0x58#8] = .ok .cli [] ∧ decode [0x78#8] = .ok .sei [] ∧ decode [0xB8#8] = .ok .clv [] ∧ decode [0xD8#8] = .ok .cld [] ∧
    decode [0xF8#8] = .ok .sed [] ∧ decode [0xEA#8] = .ok .nop [] := by decide

theorem test_decode_undocumented :
    decode [0x1A#8] = .ok (.unop1 0x1A#8) [] ∧ decode [0xEB#8, 0x01#8] = .ok (.unop2 0xEB#8) [] ∧
    decode [0x9E#8, 0x34#8, 0x12#8] = .ok (.unop3 0x9E#8) [] ∧ decode [0xF2#8] = .ok (.uhang 0xF2#8) [] := by decide

theorem test_decode_missing_bytes :
    decode [] = .rejected .noOpcode ∧ decode [0xAD#8, 0x00#8] = .rejected .missingOperand ∧
    decode [0x0C#8, 0x00#8] = .rejected .missingOperand := by decide

/-- The table numbers bits from the opcode byte's least significant bit, and gives the operands no bits. -/
theorem test_decodeTableWord :
    decodeTableWord 8 0xA9 = some (.lda (.imm 0x00#8)) ∧ decodeTableWord 24 0x12344C = some (.jmp (.abs 0x1234#16)) ∧
    decodeTableWord 8 0x00 = some .brk ∧ decodeTableWord 8 0x0C = some (.unop3 0x0C#8) := by decide

/-- The very next step after placing `LDA #$80` in the reset state runs it. -/
theorem test_withFetchWord :
    after (State.reset.withFetchWord 16 0x80A9) (fun t => t.a == 0x80#8 && t.pc == State.reset.pc + 2#16) = true := by decide

/-! ### Loads and stores: rows of spec/95_test_vectors.md -/

theorem test_v1_5_lda :
    after (put 0x0200#16 [0xBD#8, 0xFF#8, 0x12#8] (put 0x1300#16 [0x33#8] ({ start with x := 0x01#8 }))) (fun t =>
      t.a == 0x33#8 && t.x == 0x01#8 && t.y == 0x00#8 && t.sp == 0xFF#8 && t.p == 0x20#8 && t.pc == 0x0203#16
      && t.cycles == 5) = true := by decide

theorem test_v1_12_ldx :
    after (put 0x0200#16 [0xB6#8, 0x10#8] (put 0x0008#16 [0x01#8] ({ start with y := 0xF8#8 }))) (fun t =>
      t.a == 0x00#8 && t.x == 0x01#8 && t.y == 0xF8#8 && t.sp == 0xFF#8 && t.p == 0x20#8 && t.pc == 0x0202#16
      && t.cycles == 4) = true := by decide

theorem test_v1_14_ldy :
    after (put 0x0200#16 [0xBC#8, 0x34#8, 0x12#8] (put 0x1333#16 [0xF0#8] ({ start with x := 0xFF#8 }))) (fun t =>
      t.a == 0x00#8 && t.x == 0xFF#8 && t.y == 0xF0#8 && t.sp == 0xFF#8 && t.p == 0xA0#8 && t.pc == 0x0203#16
      && t.cycles == 5) = true := by decide

theorem test_v1_21_stx :
    after (put 0x0200#16 [0x96#8, 0x10#8] ({ start with x := 0x5A#8, y := 0x01#8 })) (fun t =>
      t.a == 0x00#8 && t.x == 0x5A#8 && t.y == 0x01#8 && t.sp == 0xFF#8 && t.p == 0x20#8 && t.pc == 0x0202#16
      && t.mem.read 0x0011#16 == 0x5A#8 && t.cycles == 4) = true := by decide

theorem test_v1_22_sty :
    after (put 0x0200#16 [0x94#8, 0xF0#8] ({ start with x := 0x20#8, y := 0xA5#8 })) (fun t =>
      t.a == 0x00#8 && t.x == 0x20#8 && t.y == 0xA5#8 && t.sp == 0xFF#8 && t.p == 0x20#8 && t.pc == 0x0202#16
      && t.mem.read 0x0010#16 == 0xA5#8 && t.cycles == 4) = true := by decide

theorem test_v1_23_sta :
    after (put 0x0200#16 [0x8D#8, 0x10#8, 0xFF#8] (put 0xFF10#16 [0x99#8] ({ start with a := 0x42#8, writeProtectHighRom := true }))) (fun t =>
      t.a == 0x42#8 && t.x == 0x00#8 && t.y == 0x00#8 && t.sp == 0xFF#8 && t.p == 0x20#8 && t.pc == 0x0203#16
      && t.mem.read 0xFF10#16 == 0x99#8 && t.cycles == 4) = true := by decide

theorem test_v1_28_lda :
    after (put 0x0200#16 [0xAD#8, 0x10#8, 0xD0#8] ({ start with pia := { kbd := 0xC1#8, kbdcr := 0xA7#8, dsp := 0x00#8, dspcr := 0x00#8 } })) (fun t =>
      t.a == 0xC1#8 && t.x == 0x00#8 && t.y == 0x00#8 && t.sp == 0xFF#8 && t.p == 0xA0#8 && t.pc == 0x0203#16
      && t.pia.kbd == 0xC1#8 && t.pia.kbdcr == 0x27#8 && t.cycles == 4) = true := by decide

theorem test_v1_31_sta :
    after (put 0x0200#16 [0x8D#8, 0x12#8, 0xD0#8] ({ start with a := 0xC1#8, ramExpansion8k := true, pia := { kbd := 0x80#8, kbdcr := 0x00#8, dsp := 0x00#8, dspcr := 0x04#8 } })) (fun t =>
      t.a == 0xC1#8 && t.x == 0x00#8 && t.y == 0x00#8 && t.sp == 0xFF#8 && t.p == 0x20#8 && t.pc == 0x0203#16
      && t.pia.dsp == 0xC1#8 && t.pia.dspcr == 0x04#8 && t.cycles == 4) = true := by decide

/-! ### Arithmetic and compare: rows of spec/95_test_vectors.md -/

theorem test_v2_1_adc :
    after (put 0x0200#16 [0x69#8, 0x50#8] ({ start with a := 0x50#8 })) (fun t =>
      t.a == 0xA0#8 && t.x == 0x00#8 && t.y == 0x00#8 && t.sp == 0xFF#8 && t.p == 0xE0#8 && t.pc == 0x0202#16
      && t.cycles == 2) = true := by decide

theorem test_v2_9_adc :
    after (put 0x0200#16 [0x69#8, 0x46#8] ({ start with a := 0x58#8, p := 0x29#8 })) (fun t =>
      t.a == 0x05#8 && t.x == 0x00#8 && t.y == 0x00#8 && t.sp == 0xFF#8 && t.p == 0xE9#8 && t.pc == 0x0202#16
      && t.cycles == 2) = true := by decide

theorem test_v2_19_sbc :
    after (put 0x0200#16 [0xE9#8, 0x01#8] ({ start with a := 0x80#8, p := 0x21#8 })) (fun t =>
      t.a == 0x7F#8 && t.x == 0x00#8 && t.y == 0x00#8 && t.sp == 0xFF#8 && t.p == 0x61#8 && t.pc == 0x0202#16
      && t.cycles == 2) = true := by decide

theorem test_v2_23_sbc :
    after (put 0x0200#16 [0xE9#8, 0x21#8] ({ start with a := 0x12#8, p := 0x29#8 })) (fun t =>
      t.a == 0x91#8 && t.x == 0x00#8 && t.y == 0x00#8 && t.sp == 0xFF#8 && t.p == 0xA8#8 && t.pc == 0x0202#16
      && t.cycles == 2) = true := by decide

theorem test_v2_29_cmp :
    after (put 0x0200#16 [0xC9#8, 0x80#8] ({ start with p := 0x60#8 })) (fun t =>
      t.a == 0x00#8 && t.x == 0x00#8 && t.y == 0x00#8 && t.sp == 0xFF#8 && t.p == 0xE0#8 && t.pc == 0x0202#16
      && t.cycles == 2) = true := by decide

theorem test_v2_30_cpx :
    after (put 0x0200#16 [0xE4#8, 0x10#8] (put 0x0010#16 [0x01#8] ({ start with x := 0xFF#8 }))) (fun t =>
      t.a == 0x00#8 && t.x == 0xFF#8 && t.y == 0x00#8 && t.sp == 0xFF#8 && t.p == 0xA1#8 && t.pc == 0x0202#16
      && t.cycles == 3) = true := by decide

theorem test_v2_31_cpy :
    after (put 0x0200#16 [0xCC#8, 0x34#8, 0x12#8] (put 0x1234#16 [0x01#8] start)) (fun t =>
      t.a == 0x00#8 && t.x == 0x00#8 && t.y == 0x00#8 && t.sp == 0xFF#8 && t.p == 0xA0#8 && t.pc == 0x0203#16
      && t.cycles == 4) = true := by decide

/-! ### Logic and shifts: rows of spec/95_test_vectors.md -/

theorem test_v3_2_and :
    after (put 0x0200#16 [0x29#8, 0xF0#8] ({ start with a := 0x90#8 })) (fun t =>
      t.a == 0x90#8 && t.x == 0x00#8 && t.y == 0x00#8 && t.sp == 0xFF#8 && t.p == 0xA0#8 && t.pc == 0x0202#16
      && t.cycles == 2) = true := by decide

theorem test_v3_4_ora :
    after (put 0x0200#16 [0x09#8, 0x00#8] ({ start with p := 0xA0#8 })) (fun t =>
      t.a == 0x00#8 && t.x == 0x00#8 && t.y == 0x00#8 && t.sp == 0xFF#8 && t.p == 0x22#8 && t.pc == 0x0202#16
      && t.cycles == 2) = true := by decide

theorem test_v3_6_eor :
    after (put 0x0200#16 [0x49#8, 0xFF#8] ({ start with a := 0x0F#8 })) (fun t =>
      t.a == 0xF0#8 && t.x == 0x00#8 && t.y == 0x00#8 && t.sp == 0xFF#8 && t.p == 0xA0#8 && t.pc == 0x0202#16
      && t.cycles == 2) = true := by decide

theorem test_v3_8_asl :
    after (put 0x0200#16 [0x0A#8] ({ start with a := 0x40#8, p := 0x21#8 })) (fun t =>
      t.a == 0x80#8 && t.x == 0x00#8 && t.y == 0x00#8 && t.sp == 0xFF#8 && t.p == 0xA0#8 && t.pc == 0x0201#16
      && t.cycles == 2) = true := by decide

theorem test_v3_10_lsr :
    after (put 0x0200#16 [0x4A#8] ({ start with a := 0x01#8, p := 0xA0#8 })) (fun t =>
      t.a == 0x00#8 && t.x == 0x00#8 && t.y == 0x00#8 && t.sp == 0xFF#8 && t.p == 0x23#8 && t.pc == 0x0201#16
      && t.cycles == 2) = true := by decide

theorem test_v3_11_lsr :
    after (put 0x0200#16 [0x56#8, 0xF0#8] (put 0x0010#16 [0x82#8] ({ start with x := 0x20#8 }))) (fun t =>
      t.a == 0x00#8 && t.x == 0x20#8 && t.y == 0x00#8 && t.sp == 0xFF#8 && t.p == 0x20#8 && t.pc == 0x0202#16
      && t.mem.read 0x0010#16 == 0x41#8 && t.cycles == 6) = true := by decide

theorem test_v3_12_rol :
    after (put 0x0200#16 [0x2A#8] ({ start with a := 0x80#8, p := 0x21#8 })) (fun t =>
      t.a == 0x01#8 && t.x == 0x00#8 && t.y == 0x00#8 && t.sp == 0xFF#8 && t.p == 0x21#8 && t.pc == 0x0201#16
      && t.cycles == 2) = true := by decide

theorem test_v3_14_rol :
    after (put 0x0200#16 [0x2E#8, 0x34#8, 0x12#8] (put 0x1234#16 [0x7F#8] ({ start with p := 0x21#8 }))) (fun t =>
      t.a == 0x00#8 && t.x == 0x00#8 && t.y == 0x00#8 && t.sp == 0xFF#8 && t.p == 0xA0#8 && t.pc == 0x0203#16
      && t.mem.read 0x1234#16 == 0xFF#8 && t.cycles == 6) = true := by decide

theorem test_v3_15_ror :
    after (put 0x0200#16 [0x6A#8] ({ start with a := 0x01#8, p := 0x21#8 })) (fun t =>
      t.a == 0x80#8 && t.x == 0x00#8 && t.y == 0x00#8 && t.sp == 0xFF#8 && t.p == 0xA1#8 && t.pc == 0x0201#16
      && t.cycles == 2) = true := by decide

theorem test_v3_17_ror :
    after (put 0x0200#16 [0x7E#8, 0xFF#8, 0x12#8] (put 0x1300#16 [0x02#8] ({ start with x := 0x01#8, p := 0x21#8 }))) (fun t =>
      t.a == 0x00#8 && t.x == 0x01#8 && t.y == 0x00#8 && t.sp == 0xFF#8 && t.p == 0xA0#8 && t.pc == 0x0203#16
      && t.mem.read 0x1300#16 == 0x81#8 && t.cycles == 7) = true := by decide

theorem test_v3_18_asl :
    after (put 0x0200#16 [0x0E#8, 0x00#8, 0x30#8] (put 0x3000#16 [0x81#8] ({ start with ramExpansion8k := true }))) (fun t =>
      t.a == 0x00#8 && t.x == 0x00#8 && t.y == 0x00#8 && t.sp == 0xFF#8 && t.p == 0x21#8 && t.pc == 0x0203#16
      && t.mem.read 0x3000#16 == 0x81#8 && t.cycles == 6) = true := by decide

/-! ### Increments, decrements and BIT: rows of spec/95_test_vectors.md -/

theorem test_v4_1_inc :
    after (put 0x0200#16 [0xE6#8, 0x10#8] (put 0x0010#16 [0xFF#8] ({ start with p := 0x21#8 }))) (fun t =>
      t.a == 0x00#8 && t.x == 0x00#8 && t.y == 0x00#8 && t.sp == 0xFF#8 && t.p == 0x23#8 && t.pc == 0x0202#16
      && t.mem.read 0x0010#16 == 0x00#8 && t.cycles == 5) = true := by decide

theorem test_v4_3_dec :
    after (put 0x0200#16 [0xC6#8, 0x10#8] ({ start with p := 0x22#8 })) (fun t =>
      t.a == 0x00#8 && t.x == 0x00#8 && t.y == 0x00#8 && t.sp == 0xFF#8 && t.p == 0xA0#8 && t.pc == 0x0202#16
      && t.mem.read 0x0010#16 == 0xFF#8 && t.cycles == 5) = true := by decide

theorem test_v4_5_inx :
    after (put 0x0200#16 [0xE8#8] ({ start with x := 0xFF#8 })) (fun t =>
      t.a == 0x00#8 && t.x == 0x00#8 && t.y == 0x00#8 && t.sp == 0xFF#8 && t.p == 0x22#8 && t.pc == 0x0201#16
      && t.cycles == 2) = true := by decide

theorem test_v4_6_iny :
    after (put 0x0200#16 [0xC8#8] ({ start with y := 0x7F#8 })) (fun t =>
      t.a == 0x00#8 && t.x == 0x00#8 && t.y == 0x80#8 && t.sp == 0xFF#8 && t.p == 0xA0#8 && t.pc == 0x0201#16
      && t.cycles == 2) = true := by decide

theorem test_v4_7_dex :
    after (put 0x0200#16 [0xCA#8] start) (fun t =>
      t.a == 0x00#8 && t.x == 0xFF#8 && t.y == 0x00#8 && t.sp == 0xFF#8 && t.p == 0xA0#8 && t.pc == 0x0201#16
      && t.cycles == 2) = true := by decide

theorem test_v4_8_dey :
    after (put 0x0200#16 [0x88#8] ({ start with y := 0x01#8 })) (fun t =>
      t.a == 0x00#8 && t.x == 0x00#8 && t.y == 0x00#8 && t.sp == 0xFF#8 && t.p == 0x22#8 && t.pc == 0x0201#16
      && t.cycles == 2) = true := by decide

theorem test_v4_10_bit :
    after (put 0x0200#16 [0x2C#8, 0x34#8, 0x12#8] (put 0x1234#16 [0x3F#8] ({ start with a := 0x01#8, p := 0xE2#8 }))) (fun t =>
      t.a == 0x01#8 && t.x == 0x00#8 && t.y == 0x00#8 && t.sp == 0xFF#8 && t.p == 0x20#8 && t.pc == 0x0203#16
      && t.cycles == 4) = true := by decide

theorem test_v4_12_bit :
    after (put 0x0200#16 [0x2C#8, 0x10#8, 0xD0#8] ({ start with pia := { kbd := 0x80#8, kbdcr := 0xA7#8, dsp := 0x00#8, dspcr := 0x00#8 } })) (fun t =>
      t.a == 0x00#8 && t.x == 0x00#8 && t.y == 0x00#8 && t.sp == 0xFF#8 && t.p == 0xA2#8 && t.pc == 0x0203#16
      && t.pia.kbdcr == 0x27#8 && t.cycles == 4) = true := by decide

theorem test_v4_13_inc :
    after (put 0x0200#16 [0xEE#8, 0x13#8, 0xD0#8] ({ start with pia := { kbd := 0x80#8, kbdcr := 0x00#8, dsp := 0x00#8, dspcr := 0x03#8 } })) (fun t =>
      t.a == 0x00#8 && t.x == 0x00#8 && t.y == 0x00#8 && t.sp == 0xFF#8 && t.p == 0x20#8 && t.pc == 0x0203#16
      && t.pia.dspcr == 0x04#8 && t.cycles == 6) = true := by decide

/-! ### Stack and system: rows of spec/95_test_vectors.md -/

theorem test_v5_2_pha :
    after (put 0x0200#16 [0x48#8] ({ start with a := 0x42#8, sp := 0x00#8 })) (fun t =>
      t.a == 0x42#8 && t.x == 0x00#8 && t.y == 0x00#8 && t.sp == 0xFF#8 && t.p == 0x20#8 && t.pc == 0x0201#16
      && t.mem.read 0x0100#16 == 0x42#8 && t.cycles == 3) = true := by decide

theorem test_v5_3_php :
    after (put 0x0200#16 [0x08#8] ({ start with p := 0x23#8 })) (fun t =>
      t.a == 0x00#8 && t.x == 0x00#8 && t.y == 0x00#8 && t.sp == 0xFE#8 && t.p == 0x23#8 && t.pc == 0x0201#16
      && t.mem.read 0x01FF#16 == 0x33#8 && t.cycles == 3) = true := by decide

theorem test_v5_6_pla :
    after (put 0x0200#16 [0x68#8] ({ start with a := 0x11#8 })) (fun t =>
      t.a == 0x00#8 && t.x == 0x00#8 && t.y == 0x00#8 && t.sp == 0x00#8 && t.p == 0x22#8 && t.pc == 0x0201#16
      && t.cycles == 4) = true := by decide

theorem test_v5_7_plp :
    after (put 0x0200#16 [0x28#8] (put 0x01FF#16 [0xC3#8] ({ start with sp := 0xFE#8 }))) (fun t =>
      t.a == 0x00#8 && t.x == 0x00#8 && t.y == 0x00#8 && t.sp == 0xFF#8 && t.p == 0xE3#8 && t.pc == 0x0201#16
      && t.cycles == 4) = true := by decide

theorem test_v5_9_brk :
    after (put 0x0300#16 [0x00#8, 0x00#8] (put 0xFFFE#16 [0x00#8, 0x04#8] ({ start with pc := 0x0300#16 }))) (fun t =>
      t.a == 0x00#8 && t.x == 0x00#8 && t.y == 0x00#8 && t.sp == 0xFC#8 && t.p == 0x34#8 && t.pc == 0x0400#16
      && t.mem.read 0x01FD#16 == 0x30#8 && t.mem.read 0x01FE#16 == 0x02#8 && t.mem.read 0x01FF#16 == 0x03#8
      && t.cycles == 7) = true := by decide

theorem test_v5_10_brk :
    after (put 0x0300#16 [0x00#8, 0xEA#8] (put 0xFFFE#16 [0x34#8, 0x12#8] ({ start with sp := 0x01#8, p := 0xEB#8, pc := 0x0300#16 }))) (fun t =>
      t.a == 0x00#8 && t.x == 0x00#8 && t.y == 0x00#8 && t.sp == 0xFE#8 && t.p == 0xFF#8 && t.pc == 0x1234#16
      && t.mem.read 0x0100#16 == 0x02#8 && t.mem.read 0x0101#16 == 0x03#8 && t.mem.read 0x01FF#16 == 0xFB#8
      && t.cycles == 7) = true := by decide

theorem test_v5_12_rti :
    after (put 0x0200#16 [0x40#8] (put 0x01FD#16 [0xC3#8, 0x00#8, 0x80#8] ({ start with sp := 0xFC#8, p := 0x24#8 }))) (fun t =>
      t.a == 0x00#8 && t.x == 0x00#8 && t.y == 0x00#8 && t.sp == 0xFF#8 && t.p == 0xE3#8 && t.pc == 0x8000#16
      && t.cycles == 6) = true := by decide

/-! ### Jumps and branches: rows of spec/95_test_vectors.md -/

theorem test_v6_1_jmp :
    after (put 0x0200#16 [0x4C#8, 0x00#8, 0x03#8] start) (fun t =>
      t.a == 0x00#8 && t.x == 0x00#8 && t.y == 0x00#8 && t.sp == 0xFF#8 && t.p == 0x20#8 && t.pc == 0x0300#16
      && t.cycles == 3) = true := by decide

theorem test_v6_3_jmp :
    after (put 0x0200#16 [0x6C#8, 0xFF#8, 0x12#8] (put 0x12FF#16 [0x78#8, 0x99#8] (put 0x1200#16 [0x56#8] start))) (fun t =>
      t.a == 0x00#8 && t.x == 0x00#8 && t.y == 0x00#8 && t.sp == 0xFF#8 && t.p == 0x20#8 && t.pc == 0x5678#16
      && t.cycles == 5) = true := by decide

theorem test_v6_7_jsr :
    after (put 0x0300#16 [0x20#8, 0x00#8, 0x04#8] ({ start with sp := 0x00#8, pc := 0x0300#16 })) (fun t =>
      t.a == 0x00#8 && t.x == 0x00#8 && t.y == 0x00#8 && t.sp == 0xFE#8 && t.p == 0x20#8 && t.pc == 0x0400#16
      && t.mem.read 0x0100#16 == 0x03#8 && t.mem.read 0x01FF#16 == 0x02#8 && t.cycles == 6) = true := by decide

theorem test_v6_9_rts :
    after (put 0x0200#16 [0x60#8] (put 0x01FE#16 [0xFF#8, 0xFF#8] ({ start with sp := 0xFD#8 }))) (fun t =>
      t.a == 0x00#8 && t.x == 0x00#8 && t.y == 0x00#8 && t.sp == 0xFF#8 && t.p == 0x20#8 && t.pc == 0x0000#16
      && t.cycles == 6) = true := by decide

theorem test_v6_10_bpl :
    after (put 0x0200#16 [0x10#8, 0x05#8] start) (fun t =>
      t.a == 0x00#8 && t.x == 0x00#8 && t.y == 0x00#8 && t.sp == 0xFF#8 && t.p == 0x20#8 && t.pc == 0x0207#16
      && t.cycles == 3) = true := by decide

theorem test_v6_11_bpl :
    after (put 0x0200#16 [0x10#8, 0x05#8] ({ start with p := 0xA0#8 })) (fun t =>
      t.a == 0x00#8 && t.x == 0x00#8 && t.y == 0x00#8 && t.sp == 0xFF#8 && t.p == 0xA0#8 && t.pc == 0x0202#16
      && t.cycles == 2) = true := by decide

theorem test_v6_12_bmi :
    after (put 0x0203#16 [0x30#8, 0xFB#8] ({ start with p := 0xA0#8, pc := 0x0203#16 })) (fun t =>
      t.a == 0x00#8 && t.x == 0x00#8 && t.y == 0x00#8 && t.sp == 0xFF#8 && t.p == 0xA0#8 && t.pc == 0x0200#16
      && t.cycles == 3) = true := by decide

theorem test_v6_13_bvc :
    after (put 0x0200#16 [0x50#8, 0x02#8] start) (fun t =>
      t.a == 0x00#8 && t.x == 0x00#8 && t.y == 0x00#8 && t.sp == 0xFF#8 && t.p == 0x20#8 && t.pc == 0x0204#16
      && t.cycles == 3) = true := by decide

theorem test_v6_15_bvs :
    after (put 0x0200#16 [0x70#8, 0x02#8] ({ start with p := 0x60#8 })) (fun t =>
      t.a == 0x00#8 && t.x == 0x00#8 && t.y == 0x00#8 && t.sp == 0xFF#8 && t.p == 0x60#8 && t.pc == 0x0204#16
      && t.cycles == 3) = true := by decide

theorem test_v6_17_bcs :
    after (put 0x0200#16 [0xB0#8, 0x80#8] ({ start with p := 0x21#8 })) (fun t =>
      t.a == 0x00#8 && t.x == 0x00#8 && t.y == 0x00#8 && t.sp == 0xFF#8 && t.p == 0x21#8 && t.pc == 0x0182#16
      && t.cycles == 4) = true := by decide

theorem test_v6_18_bne :
    after (put 0x0202#16 [0xD0#8, 0xFD#8] ({ start with pc := 0x0202#16 })) (fun t =>
      t.a == 0x00#8 && t.x == 0x00#8 && t.y == 0x00#8 && t.sp == 0xFF#8 && t.p == 0x20#8 && t.pc == 0x0201#16
      && t.cycles == 3) = true := by decide

theorem test_v6_21_beq :
    after (put 0x0200#16 [0xF0#8, 0xFE#8] ({ start with p := 0x22#8 })) (fun t =>
      t.a == 0x00#8 && t.x == 0x00#8 && t.y == 0x00#8 && t.sp == 0xFF#8 && t.p == 0x22#8 && t.pc == 0x0200#16
      && t.cycles == 3) = true := by decide

theorem test_v6_22_bne :
    after (put 0x02FD#16 [0xD0#8, 0x02#8] ({ start with pc := 0x02FD#16 })) (fun t =>
      t.a == 0x00#8 && t.x == 0x00#8 && t.y == 0x00#8 && t.sp == 0xFF#8 && t.p == 0x20#8 && t.pc == 0x0301#16
      && t.cycles == 4) = true := by decide

theorem test_v6_24_bcc :
    after (put 0xFFFE#16 [0x90#8, 0x10#8] ({ start with pc := 0xFFFE#16 })) (fun t =>
      t.a == 0x00#8 && t.x == 0x00#8 && t.y == 0x00#8 && t.sp == 0xFF#8 && t.p == 0x20#8 && t.pc == 0x0010#16
      && t.cycles == 3) = true := by decide

/-! ### Transfers, flag instructions and NOP: rows of spec/95_test_vectors.md -/

theorem test_v7_1_tax :
    after (put 0x0200#16 [0xAA#8] ({ start with a := 0x80#8 })) (fun t =>
      t.a == 0x80#8 && t.x == 0x80#8 && t.y == 0x00#8 && t.sp == 0xFF#8 && t.p == 0xA0#8 && t.pc == 0x0201#16
      && t.cycles == 2) = true := by decide

theorem test_v7_2_txa :
    after (put 0x0200#16 [0x8A#8] ({ start with a := 0x55#8, p := 0xA0#8 })) (fun t =>
      t.a == 0x00#8 && t.x == 0x00#8 && t.y == 0x00#8 && t.sp == 0xFF#8 && t.p == 0x22#8 && t.pc == 0x0201#16
      && t.cycles == 2) = true := by decide

theorem test_v7_3_tay :
    after (put 0x0200#16 [0xA8#8] ({ start with a := 0x01#8, p := 0x22#8 })) (fun t =>
      t.a == 0x01#8 && t.x == 0x00#8 && t.y == 0x01#8 && t.sp == 0xFF#8 && t.p == 0x20#8 && t.pc == 0x0201#16
      && t.cycles == 2) = true := by decide

theorem test_v7_4_tya :
    after (put 0x0200#16 [0x98#8] ({ start with y := 0xFF#8 })) (fun t =>
      t.a == 0xFF#8 && t.x == 0x00#8 && t.y == 0xFF#8 && t.sp == 0xFF#8 && t.p == 0xA0#8 && t.pc == 0x0201#16
      && t.cycles == 2) = true := by decide

theorem test_v7_5_txs :
    after (put 0x0200#16 [0x9A#8] ({ start with p := 0xA0#8 })) (fun t =>
      t.a == 0x00#8 && t.x == 0x00#8 && t.y == 0x00#8 && t.sp == 0x00#8 && t.p == 0xA0#8 && t.pc == 0x0201#16
      && t.cycles == 2) = true := by decide

theorem test_v7_7_tsx :
    after (put 0x0200#16 [0xBA#8] ({ start with x := 0x12#8, sp := 0x00#8 })) (fun t =>
      t.a == 0x00#8 && t.x == 0x00#8 && t.y == 0x00#8 && t.sp == 0x00#8 && t.p == 0x22#8 && t.pc == 0x0201#16
      && t.cycles == 2) = true := by decide

theorem test_v7_8_clc :
    after (put 0x0200#16 [0x18#8] ({ start with p := 0xFF#8 })) (fun t =>
      t.a == 0x00#8 && t.x == 0x00#8 && t.y == 0x00#8 && t.sp == 0xFF#8 && t.p == 0xFE#8 && t.pc == 0x0201#16
      && t.cycles == 2) = true := by decide

theorem test_v7_9_sec :
    after (put 0x0200#16 [0x38#8] start) (fun t =>
      t.a == 0x00#8 && t.x == 0x00#8 && t.y == 0x00#8 && t.sp == 0xFF#8 && t.p == 0x21#8 && t.pc == 0x0201#16
      && t.cycles == 2) = true := by decide

theorem test_v7_10_cli :
    after (put 0x0200#16 [0x58#8] ({ start with p := 0x24#8 })) (fun t =>
      t.a == 0x00#8 && t.x == 0x00#8 && t.y == 0x00#8 && t.sp == 0xFF#8 && t.p == 0x20#8 && t.pc == 0x0201#16
      && t.cycles == 2) = true := by decide

theorem test_v7_11_sei :
    after (put 0x0200#16 [0x78#8] start) (fun t =>
      t.a == 0x00#8 && t.x == 0x00#8 && t.y == 0x00#8 && t.sp == 0xFF#8 && t.p == 0x24#8 && t.pc == 0x0201#16
      && t.cycles == 2) = true := by decide

theorem test_v7_12_clv :
    after (put 0x0200#16 [0xB8#8] ({ start with p := 0x60#8 })) (fun t =>
      t.a == 0x00#8 && t.x == 0x00#8 && t.y == 0x00#8 && t.sp == 0xFF#8 && t.p == 0x20#8 && t.pc == 0x0201#16
      && t.cycles == 2) = true := by decide

theorem test_v7_13_cld :
    after (put 0x0200#16 [0xD8#8] ({ start with p := 0x28#8 })) (fun t =>
      t.a == 0x00#8 && t.x == 0x00#8 && t.y == 0x00#8 && t.sp == 0xFF#8 && t.p == 0x20#8 && t.pc == 0x0201#16
      && t.cycles == 2) = true := by decide

theorem test_v7_14_sed :
    after (put 0x0200#16 [0xF8#8] start) (fun t =>
      t.a == 0x00#8 && t.x == 0x00#8 && t.y == 0x00#8 && t.sp == 0xFF#8 && t.p == 0x28#8 && t.pc == 0x0201#16
      && t.cycles == 2) = true := by decide

theorem test_v7_15_nop :
    after (put 0x0200#16 [0xEA#8] ({ start with p := 0xFF#8 })) (fun t =>
      t.a == 0x00#8 && t.x == 0x00#8 && t.y == 0x00#8 && t.sp == 0xFF#8 && t.p == 0xFF#8 && t.pc == 0x0201#16
      && t.cycles == 2) = true := by decide

/-! ### Undocumented opcodes: rows of spec/95_test_vectors.md -/

theorem test_v8_1_unop1 :
    after (put 0x0200#16 [0x1A#8] ({ start with a := 0x12#8, p := 0xFF#8 })) (fun t =>
      t.a == 0x12#8 && t.x == 0x00#8 && t.y == 0x00#8 && t.sp == 0xFF#8 && t.p == 0xFF#8 && t.pc == 0x0201#16) = true := by decide

theorem test_v8_2_unop2 :
    after (put 0x0200#16 [0x80#8, 0xFF#8] start) (fun t =>
      t.a == 0x00#8 && t.x == 0x00#8 && t.y == 0x00#8 && t.sp == 0xFF#8 && t.p == 0x20#8 && t.pc == 0x0202#16) = true := by decide

theorem test_v8_4_unop3 :
    after (put 0x0200#16 [0x0C#8, 0x10#8, 0xD0#8] ({ start with pia := { kbd := 0x80#8, kbdcr := 0xA7#8, dsp := 0x00#8, dspcr := 0x00#8 } })) (fun t =>
      t.a == 0x00#8 && t.x == 0x00#8 && t.y == 0x00#8 && t.sp == 0xFF#8 && t.p == 0x20#8 && t.pc == 0x0203#16
      && t.pia.kbdcr == 0xA7#8) = true := by decide

theorem test_v8_6_uhang :
    after (put 0x0200#16 [0x02#8] start) (fun t =>
      t.a == 0x00#8 && t.x == 0x00#8 && t.y == 0x00#8 && t.sp == 0xFF#8 && t.p == 0x20#8 && t.pc == 0x0200#16) = true := by decide
/-! ### Interrupts: rows V9 of spec/95_test_vectors.md -/

/-- The handlers of the rows V9. -/
def handlers : State :=
  put 0xFFFA#16 [0x00#8, 0x05#8] (put 0xFFFE#16 [0x00#8, 0x04#8] (put 0x0400#16 [0xEA#8] (put 0x0500#16 [0xEA#8]
    (put 0x0200#16 [0xEA#8] start))))

theorem test_v9_4_both_interrupts :
    after { handlers with irqLine := true, nmiPending := true } (fun t =>
      t.sp == 0xF9#8 && t.p == 0x24#8 && t.pc == 0x0501#16 && !t.nmiPending && t.irqLine &&
      t.mem.read 0x01FF#16 == 0x02#8 && t.mem.read 0x01FE#16 == 0x00#8 && t.mem.read 0x01FD#16 == 0x20#8 &&
      t.mem.read 0x01FC#16 == 0x04#8 && t.mem.read 0x01FB#16 == 0x00#8 && t.mem.read 0x01FA#16 == 0x24#8) = true := by
  decide

theorem test_v9_2_irq_masked :
    after { handlers with p := 0x24#8, irqLine := true } (fun t => t.sp == 0xFF#8 && t.p == 0x24#8 && t.pc == 0x0201#16) =
      true := by decide

/-- A host move between the two byte reads of `LDA $1234` is seen by the data read (R36). -/
theorem test_host_store_before_the_data_read :
    after { put 0x0200#16 [0xAD#8, 0x34#8, 0x12#8] start with
      hostTurns := [[], [], [], [], [], [.storeByte 0x1234#16 0x77#8]] } (fun t => t.a == 0x77#8) = true := by decide

/-- A reset asked for in the middle of an instruction takes effect before the next one (R151, R154). -/
theorem test_reset_waits_for_the_boundary :
    after { put 0x0200#16 [0xA9#8, 0x55#8] start with hostTurns := [[], [], [.request .machineReset]] } (fun t =>
      t.a == 0x55#8 && t.pc == 0x0202#16 && t.pendingControl == [.machineReset]) = true := by decide

/-! ### Machine reset with ROM images: E8 and M7 of spec/95_test_vectors.md -/

/-- The monitor image of E8: three bytes of program, the reset vector FF00 and the IRQ and BRK vector FF80. -/
def monitorE8 (b0 b1 b2 : Byte) : Vector Byte 256 :=
  ((((((Vector.replicate 256 0x00#8).set 0 b0).set 1 b1).set 2 b2).set 0xFD 0xFF#8).set 0xFE 0x80#8).set 0xFF 0xFF#8

/-- The launch of E8, from its power-on values. -/
def launchE8 (b0 b1 b2 : Byte) : State :=
  launch { Roms.blank with monitor := monitorE8 b0 b1 b2 } { State.reset with a := 0x11#8, p := 0xE3#8, sp := 0x33#8 }

theorem test_e8_reset_then_jmp :
    (launchE8 0x4C#8 0x00#8 0xFF#8).pc = 0xFF00#16 ∧ (launchE8 0x4C#8 0x00#8 0xFF#8).p = 0xE7#8 ∧
    after (launchE8 0x4C#8 0x00#8 0xFF#8) (fun t => t.pc == 0xFF00#16 && t.p == 0xE7#8 && t.sp == 0xFF#8 && t.a == 0x11#8) =
      true := by decide +kernel

theorem test_e8_reset_then_brk :
    after (launchE8 0x00#8 0x00#8 0x00#8) (fun t =>
      t.pc == 0xFF80#16 && t.p == 0xF7#8 && t.sp == 0xFC#8 && t.mem.read 0x01FF#16 == 0xFF#8 &&
      t.mem.read 0x01FE#16 == 0x02#8 && t.mem.read 0x01FD#16 == 0xF7#8) = true := by decide +kernel

/-- M7, at the ends of each range. -/
theorem test_m7_memory_reset :
    let m := Memory.reset { Roms.blank with basic := Vector.replicate 4096 0xEA#8 }
      [(0x0000, 0xAA#8), (0xDFFF, 0xAA#8), (0xE000, 0xAA#8), (0xF000, 0xAA#8), (0xFEFF, 0xAA#8), (0xFF00, 0xAA#8)]
    m.read 0x0000#16 = 0x00#8 ∧ m.read 0xDFFF#16 = 0x00#8 ∧ m.read 0xE000#16 = 0xEA#8 ∧ m.read 0xEFFF#16 = 0xEA#8 ∧
    m.read 0xF000#16 = 0xAA#8 ∧ m.read 0xFEFF#16 = 0xAA#8 ∧ m.read 0xFF00#16 = 0x00#8 ∧ m.read 0xFFFF#16 = 0x00#8 := by
  decide +kernel

/-! ### Witnesses: a state that meets the hypotheses of each statement that has any -/

/-- For every statement whose hypothesis on the state is an idle host alone. -/
theorem witness_hostIdle : start.hostIdle ∧ handlers.hostIdle ∧ State.reset.hostIdle := ⟨rfl, rfl, rfl⟩

theorem witness_DecodeOfEncodeIsTheInstruction :
    Instr.wellFormed (.lda (.imm 0xFF#8)) = true ∧ Instr.wellFormed (.jmp (.ind 0xFFFF#16)) = true ∧
    Instr.wellFormed (.unop1 0x1A#8) = true ∧ Instr.wellFormed (.unop2 0x80#8) = true ∧
    Instr.wellFormed (.unop3 0x0C#8) = true ∧ Instr.wellFormed (.uhang 0x02#8) = true := by decide

/-- Its last clause at an instruction that is neither BRK nor of UNOP2 or UNOP3, and the others at one that is. -/
theorem witness_DecodedBytesAreTheEncoding :
    decode [0xA9#8, 0x80#8, 0xEA#8] = .ok (.lda (.imm 0x80#8)) [0xEA#8] ∧ Instr.lda (.imm 0x80#8) ≠ .brk ∧
    decode [0x80#8, 0xFF#8] = .ok (.unop2 0x80#8) [] := by decide

/-- An instruction of three bytes at 0x0200. -/
def jumping : State := put 0x0200#16 [0x4C#8, 0x00#8, 0x02#8] start

theorem witness_StepRunsTheDecodedInstruction :
    jumping.atFetch ∧ isPia jumping.pc = false ∧ isPia (jumping.pc + 1#16) = false ∧ isPia (jumping.pc + 2#16) = false ∧
    decode [jumping.mem.read jumping.pc, jumping.mem.read (jumping.pc + 1#16), jumping.mem.read (jumping.pc + 2#16)] =
      .ok (.jmp (.abs 0x0200#16)) [] :=
  ⟨⟨rfl, rfl, by decide, rfl⟩, by decide, by decide, by decide, by decide⟩

/-- At the keyboard data register, and at the last address, where PC wraps. -/
theorem witness_FetchReadsThroughTheBus :
    (start.withPc 0xD010#16).hostIdle ∧ (fetch8 (start.withPc 0xD010#16)).2.pia.kbdcr = 0x27#8 ∧
    (start.withPc 0xFFFF#16).hostIdle ∧ (fetch8 (start.withPc 0xFFFF#16)).2.pc = 0x0000#16 :=
  ⟨rfl, by decide, rfl, by decide⟩

theorem witness_StepKeepsTheInvariant : jumping.Inv ∧ ∃ t, step jumping = .next t := ⟨⟨by decide, by decide⟩, _, rfl⟩

/-- Both interrupts pending, then none. -/
theorem witness_InterruptsAreServicedBeforeTheInstruction :
    State.hostIdle { handlers with irqLine := true, nmiPending := true } ∧ handlers.pendingControl = [] := ⟨rfl, rfl⟩

/-- A hang opcode at 0x0200. -/
def hanging : State := put 0x0200#16 [0x02#8] start

theorem witness_HangIsAFixedPoint :
    hanging.atFetch ∧ isPia hanging.pc = false ∧ isUndocOf .uhang (hanging.mem.read hanging.pc) = true :=
  ⟨⟨rfl, rfl, by decide, rfl⟩, by decide, by decide⟩

theorem witness_JumpToItselfIsAFixedPoint :
    jumping.atFetch ∧ isPia jumping.pc = false ∧ isPia (jumping.pc + 1#16) = false ∧ isPia (jumping.pc + 2#16) = false ∧
    jumping.mem.read jumping.pc = 0x4C#8 ∧ jumping.mem.read (jumping.pc + 1#16) = lo8 jumping.pc ∧
    jumping.mem.read (jumping.pc + 2#16) = hi8 jumping.pc :=
  ⟨⟨rfl, rfl, by decide, rfl⟩, by decide, by decide, by decide, by decide, by decide, by decide⟩

/-- The line low, the line high and masked, the line high and not masked. -/
theorem witness_IrqServiceRule :
    handlers.hostIdle ∧ handlers.irqLine = false ∧
    State.flagI { handlers with p := 0x24#8, irqLine := true } = true ∧
    State.irqLine { handlers with irqLine := true } = true ∧ State.flagI { handlers with irqLine := true } = false :=
  ⟨rfl, by decide, by decide, by decide, by decide⟩

theorem witness_NmiServiceRule :
    handlers.hostIdle ∧ handlers.nmiPending = false ∧ State.hostIdle { handlers with nmiPending := true } ∧
    State.nmiPending { handlers with nmiPending := true } = true := ⟨rfl, rfl, rfl, rfl⟩

/-- Also with SP at 0, where the six pushes wrap in page 1. -/
theorem witness_IrqFrameLiesUnderNmiFrame :
    let s := { handlers with sp := 0x00#8, irqLine := true, nmiPending := true }
    s.hostIdle ∧ s.irqLine = true ∧ s.flagI = false ∧ s.nmiPending = true := ⟨rfl, rfl, by decide, rfl⟩

/-- Both sides of each end of the PIA window. -/
theorem witness_ReadAnswersTheStoredByte :
    start.hostIdle ∧ (0xD00F#16 : Addr).toNat < 0xD010 ∧ 0xD013 < (0xD014#16 : Addr).toNat ∧
    0xD010 ≤ (0xD010#16 : Addr).toNat ∧ (0xD010#16 : Addr).toNat ≤ 0xD013 ∧
    0xD010 ≤ (0xD013#16 : Addr).toNat ∧ (0xD013#16 : Addr).toNat ≤ 0xD013 := ⟨rfl, by decide⟩

/-- Each branch of the write at the ends of its range: the PIA at 0xD010 and 0xD013; the high ROM at 0xFF00 and 0xFFFF;
the expansion flag's range at 0x2000 and 0xFEFF; stores just below both. -/
theorem witness_WriteReachesStoresOrDrops :
    start.hostIdle ∧
    (memWrite 0xD010#16 0x11#8 start).pia.kbd = 0x11#8 ∧ (memWrite 0xD013#16 0x11#8 start).pia.dspcr = 0x11#8 ∧
    (memWrite 0xFF00#16 0x11#8 { start with writeProtectHighRom := true }).mem = [] ∧
    (memWrite 0xFFFF#16 0x11#8 { start with writeProtectHighRom := true }).mem = [] ∧
    (memWrite 0xFEFF#16 0x11#8 { start with writeProtectHighRom := true }).mem = [(0xFEFF, 0x11#8)] ∧
    (memWrite 0x2000#16 0x11#8 { start with ramExpansion8k := true }).mem = [] ∧
    (memWrite 0xFEFF#16 0x11#8 { start with ramExpansion8k := true }).mem = [] ∧
    (memWrite 0x1FFF#16 0x11#8 { start with ramExpansion8k := true }).mem = [(0x1FFF, 0x11#8)] ∧
    (memWrite 0xFF00#16 0x11#8 { start with ramExpansion8k := true }).mem = [(0xFF00, 0x11#8)] := ⟨rfl, by decide⟩

/-- The keyboard control register idle and not, the display gate open and shut. -/
theorem witness_PiaRegistersThroughTheBus :
    start.hostIdle ∧ (memWrite 0xD011#16 0xA7#8 start).pia.kbdcr = 0x27#8 ∧
    (memWrite 0xD011#16 0x00#8 { start with pia := { Pia.reset with kbdcr := 0x27#8 } }).pia.kbdcr = 0x00#8 ∧
    (memWrite 0xD012#16 0xC1#8 start).pia.dsp = 0x00#8 ∧
    (memWrite 0xD012#16 0xC1#8 { start with pia := { Pia.reset with dspcr := 0x04#8 } }).pia.dsp = 0xC1#8 :=
  ⟨rfl, by decide⟩

/-- Two states that differ, in the cell under 0xD010 alone. -/
theorem witness_CellsUnderThePiaAreInvisible :
    SameButPiaCells jumping (put 0xD010#16 [0x99#8] jumping) ∧ jumping ≠ put 0xD010#16 [0x99#8] jumping ∧
    ∃ t, step jumping = .next t := by
  refine ⟨⟨rfl, fun b hb => ?_⟩, by decide, _, rfl⟩
  show Memory.read (Memory.write jumping.mem 0xD010#16 0x99#8) b = _
  refine Memory.read_write_other _ _ _ _ ?_
  rintro rfl
  exact absurd hb (by decide)

/-- A memory that is zero below 0xE000 and agrees with the state's from 0xF000 to 0xFEFF; addresses at the ends. -/
theorem witness_MemoryResetInstallsTheRoms :
    (∀ b : Addr, b.toNat < 0xE000 → Memory.read [] b = 0x00#8) ∧
    (∀ b : Addr, 0xF000 ≤ b.toNat → b.toNat < 0xFF00 → Memory.read [] b = State.reset.mem.read b) ∧
    (0xDFFF#16 : Addr).toNat < 0xE000 ∧ 0xF000 ≤ (0xF000#16 : Addr).toNat ∧ (0xFEFF#16 : Addr).toNat < 0xFF00 :=
  ⟨fun _ _ => rfl, fun _ _ _ => rfl, by decide⟩

/-- An opcode byte without operand bytes, with one and with two. -/
theorem witness_FetchPhaseUsesFetch8 :
    (∃ i, layout 0xEA#8 = .implied i) ∧ (∃ k, layout 0xA9#8 = .byte k) ∧ (∃ k, layout 0xAD#8 = .word k) :=
  ⟨⟨_, rfl⟩, ⟨_, rfl⟩, ⟨_, rfl⟩⟩

/-- Two bytes that end at the last address; the byte before the first. -/
theorem witness_SnapshotReturnsTheLoadedBytes :
    ([0x11#8, 0x22#8] : List Byte) ≠ [] ∧ (0xFFFF#16 : Addr).toNat + 1 = (0xFFFE#16 : Addr).toNat + [0x11#8, 0x22#8].length ∧
    (0xFFFD#16 : Addr).toNat < (0xFFFE#16 : Addr).toNat := by decide

theorem witness_OverflowingLoadNeverWraps :
    65536 < (0xFFFF#16 : Addr).toNat + [0x11#8, 0x22#8].length ∧ (0x0000#16 : Addr).toNat < (0xFFFF#16 : Addr).toNat := by
  decide

/-- Also with SP at 0 and at 255, where a push and a pull wrap. -/
theorem witness_PushAndPull :
    State.hostIdle { start with sp := 0x00#8 } ∧ (push8 0x42#8 { start with sp := 0x00#8 }).sp = 0xFF#8 ∧
    (pull8 start).2.sp = 0x00#8 := ⟨rfl, by decide, by decide⟩

/-- With a control move waiting. -/
theorem witness_HostMovesLeaveTheCpu :
    let s := { start with pendingControl := [.machineReset, .exportState] }
    s.hostIdle ∧ s.irqLine = false ∧ s.nmiPending = false := ⟨rfl, rfl, rfl⟩

theorem witness_ExportAfterImport : start.p.getLsbD 5 = true := by decide

/-- Indexed and indirect modes with the index at its ends, so that each wrap and each page crossing happens. -/
theorem witness_ResolverYieldsTheAddress :
    let s := { start with x := 0xFF#8, y := 0x01#8 }
    s.hostIdle ∧ (resolve (.zpx 0x80#8) s).1 = 0x007F#16 ∧ (resolve (.absx 0xFFFF#16) s).1 = 0x00FE#16 ∧
    (resolve (.absy 0x12FF#16) s).2.cycles = 1 ∧ (resolve (.absyw 0x12FF#16) s).2.cycles = 0 :=
  ⟨rfl, by decide, by decide, by decide, by decide⟩

/-- A pointer inside a page, and one at the end of a page. -/
theorem witness_JmpGoesToItsTarget :
    start.hostIdle ∧ (0x1235#16 : Addr).toNat = (0x1234#16 : Addr).toNat / 256 * 256 + ((0x1234#16 : Addr).toNat + 1) % 256 ∧
    (0x1200#16 : Addr).toNat = (0x12FF#16 : Addr).toNat / 256 * 256 + ((0x12FF#16 : Addr).toNat + 1) % 256 :=
  ⟨rfl, by decide, by decide⟩

/-- Both modes of ADC and SBC. -/
theorem witness_AdcAddsInBothModes_SbcSubtractsInBothModes :
    start.hostIdle ∧ start.flagD = false ∧ State.hostIdle { start with p := 0x28#8 } ∧
    State.flagD { start with p := 0x28#8 } = true := ⟨rfl, by decide, rfl, by decide⟩

/-- `58 + 46` in decimal mode. -/
theorem witness_DecimalAdcIsDecimalAddition :
    let s := { start with a := 0x58#8, p := 0x29#8 }
    s.hostIdle ∧ s.flagD = true ∧ s.a.toNat = 16 * 5 + 8 ∧ (s.sourceByte (ReadOp.imm 0x46#8).source).toNat = 16 * 4 + 6 :=
  ⟨rfl, by decide, by decide, by decide⟩

/-- `0 - 99` in decimal mode. -/
theorem witness_DecimalSbcIsDecimalSubtraction :
    let s := { start with a := 0x00#8, p := 0x29#8 }
    s.hostIdle ∧ s.flagD = true ∧ s.a.toNat = 16 * 0 + 0 ∧ (s.sourceByte (ReadOp.imm 0x99#8).source).toNat = 16 * 9 + 9 :=
  ⟨rfl, by decide, by decide, by decide⟩

theorem witness_BinarySbcIsAdcOfTheComplement : start.flagD = false := by decide

/-- The accumulator form and a memory form, the latter also at an address whose write is dropped. -/
theorem witness_ShiftsMoveOneBit_IncAndDecModifyMemory :
    start.hostIdle ∧ ShiftOp.acc.place = .acc ∧ (ShiftOp.abs 0x3000#16).place = .mem (.abs 0x3000#16) ∧
    State.hostIdle { start with ramExpansion8k := true } ∧
    State.writeProtected { start with ramExpansion8k := true } 0x3000#16 = true := ⟨rfl, rfl, rfl, rfl, by decide⟩

theorem witness_NoInstructionWritesTheInputs :
    start.hostIdle ∧ (∃ t, exec .brk start = .next t) ∧ ∃ t, step start = .next t := ⟨rfl, ⟨_, rfl⟩, _, rfl⟩

/-- One instruction that writes none of the flags its clauses name, and one for each clause that keeps that flag. -/
theorem witness_FlagWriters :
    (∃ t, exec .nop start = .next t) ∧ Instr.nop ≠ .plp ∧ Instr.nop ≠ .rti ∧ Instr.nop ≠ .brk ∧ Instr.nop ≠ .sei ∧
    Instr.nop ≠ .sed ∧ Instr.nop ≠ .clv ∧ Instr.nop ≠ .sec ∧
    (∃ t, exec (.lda (.imm 0x00#8)) start = .next t) ∧
    (∀ m, Instr.lda (.imm 0x00#8) ≠ .adc m ∧ Instr.lda (.imm 0x00#8) ≠ .sbc m) ∧
    (∀ m, Instr.lda (.imm 0x00#8) ≠ .bit m) := by
  refine ⟨⟨_, rfl⟩, by decide, by decide, by decide, by decide, by decide, by decide, by decide, ⟨_, rfl⟩, ?_, ?_⟩
  · exact fun m => ⟨Instr.noConfusion, Instr.noConfusion⟩
  · exact fun m => Instr.noConfusion

/-- A store keeps every register, so it meets the hypotheses of all four clauses. -/
theorem witness_RegisterWriters :
    (∃ t, exec (.sta (.zp 0x10#8)) start = .next t) ∧
    (∀ m, Instr.sta (.zp 0x10#8) ≠ .lda m ∧ Instr.sta (.zp 0x10#8) ≠ .adc m) ∧
    (∀ m, Instr.sta (.zp 0x10#8) ≠ .ldx m) ∧ (∀ m, Instr.sta (.zp 0x10#8) ≠ .ldy m) ∧
    Instr.sta (.zp 0x10#8) ≠ .pha ∧ Instr.sta (.zp 0x10#8) ≠ .txs :=
  ⟨⟨_, rfl⟩, fun _ => ⟨Instr.noConfusion, Instr.noConfusion⟩, fun _ => Instr.noConfusion, fun _ => Instr.noConfusion,
    by decide, by decide⟩

end Sys2Proof.Tests
end

section
/-! The bulk loads and the host's moves: what a load writes past 0xFFFF and below its start (R10, R34), and what a boundary
does where no interrupt is raised (R127, R151). -/

namespace Sys2Proof.Machine

/-- The bytes that would lie past 0xFFFF make no difference to a load. -/
theorem Memory.storeFrom_take : ∀ (vs : List Byte) (k : Nat) (m : Memory),
    storeFrom m k (vs.take (65536 - k)) = storeFrom m k vs
  | [], _, _ => by simp
  | v :: vs, k, m => by
    by_cases hk : k < 65536
    · have hroom : 65536 - k = 65536 - (k + 1) + 1 := by omega
      rw [hroom, List.take_succ_cons, storeFrom, storeFrom, if_pos hk, if_pos hk, storeFrom_take vs (k + 1)]
    · have hroom : 65536 - k = 0 := by omega
      rw [hroom, List.take_zero, storeFrom, storeFrom, if_neg hk]

/-- A load writes no address below the one it starts at. -/
theorem Memory.read_storeFrom_below (b : Addr) : ∀ (vs : List Byte) (k : Nat) (m : Memory), b.toNat < k →
    (storeFrom m k vs).read b = m.read b
  | [], _, _, _ => rfl
  | v :: vs, k, m, hb => by
    by_cases hk : k < 65536
    · have hne : b ≠ BitVec.ofNat 16 k := by
        rintro rfl
        rw [BitVec.toNat_ofNat, Nat.mod_eq_of_lt hk] at hb
        exact lt_irrefl k hb
      rw [storeFrom, if_pos hk, read_storeFrom_below b vs (k + 1) _ (by omega), read_write_other _ _ _ _ hne]
    · rw [storeFrom, if_neg hk]

/-- Under the policy `reject` a load either is stored as it stands or leaves memory alone (R10). -/
theorem Memory.loadImage_reject_fits {bytes : List Byte} {start : Addr} (h : start.toNat + bytes.length ≤ 65536)
    (m : Memory) : loadImage .reject bytes start m = storeFrom m start.toNat bytes := if_pos h

theorem Memory.loadImage_reject_overflows {bytes : List Byte} {start : Addr} (h : 65536 < start.toNat + bytes.length)
    (m : Memory) : loadImage .reject bytes start m = m := if_neg (Nat.not_le.mpr h)

/-- With an idle host and no interrupt raised, a boundary carries out the control moves that wait and nothing else. -/
theorem boundary_uninterrupted {s : State} (h : s.hostIdle) (hirq : s.irqLine = false) (hnmi : s.nmiPending = false) :
    boundary s = drainControl s := by
  obtain ⟨hirq', hnmi', hturns, -⟩ := controlMoves_inputs s.pendingControl (s.withPendingControl [])
  have hidle : (drainControl s).hostIdle := hturns.trans h
  have hlevel : (drainControl s).irqLine = false := hirq'.trans hirq
  have hmasked : (drainControl s).irqLine = true → (drainControl s).flagI = true := by simp [hlevel]
  have hnone : (drainControl s).nmiPending = false := hnmi'.trans hnmi
  rw [boundary, hostTurn_idle h, serviceIrq_masked hmasked, hostTurn_idle hidle, serviceNmi_none hnone]

/-- No host move changes which moves are still to come. -/
theorem hostMoves_hostTurns : ∀ (ms : List HostMove) (s : State), (hostMoves ms s).hostTurns = s.hostTurns
  | [], _ => rfl
  | m :: ms, s => (hostMoves_hostTurns ms _).trans (by cases m <;> rfl)

end Sys2Proof.Machine
end

section
/-! A property of the state that every primitive write of an instruction keeps is kept by every instruction, and, where it
also survives what happens at a fetch boundary, by every step. The walk through the operations and the instructions is made
once here; a claim about all instructions or all steps is then a claim about the primitive writes. -/

namespace Sys2Proof.Machine

/-- The property survives each write the operation phase is made of: a register, a settable bit of `P` (bit 5 is not one,
R18), the whole of `P` with bit 5 at 1, the PIA, a byte of memory, the cycle count; and the host's turn before an access. -/
structure ExecKeeps (P : State → Prop) : Prop where
  turn : ∀ {s}, P s → P (hostTurn s)
  setA : ∀ {v s}, P s → P (State.withA v s)
  setX : ∀ {v s}, P s → P (State.withX v s)
  setY : ∀ {v s}, P s → P (State.withY v s)
  setSp : ∀ {v s}, P s → P (State.withSp v s)
  setPc : ∀ {v s}, P s → P (State.withPc v s)
  setBit : ∀ {k b s}, k < 8 → k ≠ 5 → P s → P (State.setFlag k b s)
  setP : ∀ {v s}, P s → P (State.writeP v s)
  setPia : ∀ {q s}, P s → P (State.withPia q s)
  setByte : ∀ {a v s}, P s → P (State.withMem (s.mem.write a v) s)
  charges : ∀ {n s}, P s → P (State.addCycles n s)

/-- The property also survives what only a fetch boundary does: the control moves, taken out of their list, and the
acknowledge of an NMI. -/
structure StepKeeps (P : State → Prop) : Prop extends ExecKeeps P where
  control : ∀ {m s}, P s → P (controlMove m s)
  drained : ∀ {s}, P s → P (State.withPendingControl [] s)
  nmiCleared : ∀ {s}, P s → P (State.withNmiPending false s)

/-- Where the result goes on, the property holds of the next state. -/
def OnNext (P : State → Prop) (r : Result) : Prop := ∀ t, r = .next t → P t

theorem onNext_next {P : State → Prop} {t : State} (h : P t) : OnNext P (.next t) := by
  rintro _ ⟨⟩
  exact h

section Operations

variable {P : State → Prop} (hP : ExecKeeps P) {s : State}
include hP

/-! ### The accesses -/

theorem memRead_keeps {a : Addr} (h : P s) : P (memRead a s).2 := by
  rw [memRead, busRead_eq]
  exact hP.setPia (hP.turn h)

theorem memWrite_keeps {a : Addr} {v : Byte} (h : P s) : P (memWrite a v s) := by
  unfold memWrite busWrite
  split_ifs
  · exact hP.setPia (hP.turn h)
  · exact hP.turn h
  · exact hP.setByte (hP.turn h)

theorem readTwo_keeps {lo hi : Addr} (h : P s) : P (readTwo lo hi s).2 := memRead_keeps hP (memRead_keeps hP h)

theorem push8_keeps {v : Byte} (h : P s) : P (push8 v s) := hP.setSp (memWrite_keeps hP h)

theorem push16_keeps {w : Addr} (h : P s) : P (push16 w s) := push8_keeps hP (push8_keeps hP h)

theorem pull8_keeps (h : P s) : P (pull8 s).2 := memRead_keeps hP (hP.setSp h)

theorem pull16_keeps (h : P s) : P (pull16 s).2 := pull8_keeps hP (pull8_keeps hP h)

theorem fetch8_keeps (h : P s) : P (fetch8 s).2 := hP.setPc (memRead_keeps hP h)

/-! ### The flags -/

theorem setNZ_keeps {v : Byte} (h : P s) : P (s.setNZ v) :=
  hP.setBit (by decide) (by decide) (hP.setBit (by decide) (by decide) h)

theorem setNZC_keeps {o : AluResult} (h : P s) : P (s.setNZC o) :=
  hP.setBit (by decide) (by decide) (hP.setBit (by decide) (by decide) (hP.setBit (by decide) (by decide) h))

theorem setNVZC_keeps {o : AluResult} (h : P s) : P (s.setNVZC o) :=
  hP.setBit (by decide) (by decide) (hP.setBit (by decide) (by decide)
    (hP.setBit (by decide) (by decide) (hP.setBit (by decide) (by decide) h)))

theorem shiftFlags_keeps {o : ShiftResult} (h : P s) : P (s.shiftFlags o) :=
  setNZ_keeps hP (hP.setBit (by decide) (by decide) h)

/-! ### The operations on an operand byte -/

theorem putAlu_keeps {o : AluResult} (h : P s) : P (s.putAlu o) := setNVZC_keeps hP (hP.setA h)

theorem adcOn_keeps {m : Byte} (h : P s) : P (adcOn m s) := by
  unfold adcOn
  split_ifs <;> exact putAlu_keeps hP h

theorem sbcOn_keeps {m : Byte} (h : P s) : P (sbcOn m s) := by
  unfold sbcOn
  split_ifs <;> exact putAlu_keeps hP h

theorem logicOn_keeps {f : Byte → Byte → Byte} {m : Byte} (h : P s) : P (logicOn f m s) := setNZ_keeps hP (hP.setA h)

theorem bitOn_keeps {m : Byte} (h : P s) : P (bitOn m s) :=
  hP.setBit (by decide) (by decide) (hP.setBit (by decide) (by decide) (hP.setBit (by decide) (by decide) h))

/-! ### The operand forms -/

theorem resolve_keeps {m : AddrMode} (h : P s) : P (resolve m s).2 := by
  cases m
  case zp | zpx | zpy | abs | absxw | absyw => exact h
  case absx | absy => exact hP.charges h
  case indx | indyw => exact readTwo_keeps hP h
  case indy => exact hP.charges (readTwo_keeps hP h)

theorem readSource_keeps {r : Source} (h : P s) : P (readSource r s).2 := by
  cases r
  case imm => exact h
  case mem => exact memRead_keeps hP (resolve_keeps hP h)

theorem jumpTarget_keeps {t : JmpOp} (h : P s) : P (jumpTarget t s).2 := by
  cases t
  case abs => exact h
  case ind => exact readTwo_keeps hP h

theorem onSource_keeps {r : Source} {f : Byte → State → State} (hf : ∀ {v u}, P u → P (f v u)) (h : P s) :
    OnNext P (onSource r f s) := onNext_next (hf (readSource_keeps hP h))

theorem storeAt_keeps {m : AddrMode} {v : State → Byte} (h : P s) : OnNext P (storeAt m v s) :=
  onNext_next (memWrite_keeps hP (resolve_keeps hP h))

theorem modifyAt_keeps {m : AddrMode} {f : Byte → State → Byte × State} (hf : ∀ {v u}, P u → P (f v u).2) (h : P s) :
    OnNext P (modifyAt m f s) :=
  onNext_next (memWrite_keeps hP (hf (memRead_keeps hP (resolve_keeps hP h))))

theorem shiftOn_keeps {f : Byte → Bool → ShiftResult} {p : Place} (h : P s) : OnNext P (shiftOn f p s) := by
  unfold shiftOn
  cases p
  case acc => exact onNext_next (hP.setA (shiftFlags_keeps hP h))
  case mem => exact modifyAt_keeps hP (shiftFlags_keeps hP) h

theorem execInc_keeps {m : IncOp} (h : P s) : OnNext P (execInc m s) := by
  unfold execInc
  exact modifyAt_keeps hP (setNZ_keeps hP) h

theorem execDec_keeps {m : IncOp} (h : P s) : OnNext P (execDec m s) := by
  unfold execDec
  exact modifyAt_keeps hP (setNZ_keeps hP) h

theorem branchIf_keeps {cond : Bool} {d : Byte} (h : P s) : OnNext P (branchIf cond d s) := by
  cases cond
  · exact onNext_next h
  · exact onNext_next (hP.setPc (hP.charges h))

/-! ### The handlers -/

/-- Taking an exception keeps what its acknowledge keeps. -/
theorem enterHandler_keeps {e : Entry} (he : ∀ {u}, P u → P (e.acknowledge u)) (h : P s) : P (enterHandler e s) :=
  hP.setPc (readTwo_keeps hP (he (hP.setBit (by decide) (by decide) (push8_keeps hP (push16_keeps hP h)))))

theorem returnFromHandler_keeps (h : P s) : P (returnFromHandler s) :=
  hP.setPc (pull16_keeps hP (hP.setP (pull8_keeps hP h)))

/-! ### The instructions and the fetch -/

/-- Every instruction keeps the property: each is an operation above, or a few of the primitive writes. -/
theorem exec_keeps (i : Instr) (h : P s) : OnNext P (exec i s) := by
  cases i
  case lda => exact onSource_keeps hP (fun h => setNZ_keeps hP (hP.setA h)) h
  case ldx => exact onSource_keeps hP (fun h => setNZ_keeps hP (hP.setX h)) h
  case ldy => exact onSource_keeps hP (fun h => setNZ_keeps hP (hP.setY h)) h
  case sta | stx | sty => exact storeAt_keeps hP h
  case adc => exact onSource_keeps hP (adcOn_keeps hP) h
  case sbc => exact onSource_keeps hP (sbcOn_keeps hP) h
  case cmp | cpx | cpy => exact onSource_keeps hP (setNZC_keeps hP) h
  case and | ora | eor => exact onSource_keeps hP (logicOn_keeps hP) h
  case bit => exact onSource_keeps hP (bitOn_keeps hP) h
  case asl | lsr | rol | ror => exact shiftOn_keeps hP h
  case inc => exact execInc_keeps hP h
  case dec => exact execDec_keeps hP h
  case inx | dex | tax | tsx => exact onNext_next (setNZ_keeps hP (hP.setX h))
  case iny | dey | tay => exact onNext_next (setNZ_keeps hP (hP.setY h))
  case txa | tya => exact onNext_next (setNZ_keeps hP (hP.setA h))
  case txs => exact onNext_next (hP.setSp h)
  case pha | php => exact onNext_next (push8_keeps hP h)
  case pla => exact onNext_next (setNZ_keeps hP (hP.setA (pull8_keeps hP h)))
  case plp => exact onNext_next (hP.setP (pull8_keeps hP h))
  case brk => exact onNext_next (enterHandler_keeps hP id (hP.setBit (by decide) (by decide) h))
  case rti => exact onNext_next (returnFromHandler_keeps hP h)
  case jmp => exact onNext_next (hP.setPc (jumpTarget_keeps hP h))
  case jsr => exact onNext_next (hP.setPc (push16_keeps hP h))
  case rts => exact onNext_next (hP.setPc (pull16_keeps hP h))
  case bpl | bmi | bvc | bvs | bcc | bcs | bne | beq => exact branchIf_keeps hP h
  case clc | sec | cli | sei | clv | cld | sed => exact onNext_next (hP.setBit (by decide) (by decide) h)
  case nop | unop1 => exact onNext_next h
  case unop2 | unop3 | uhang => exact onNext_next (hP.setPc h)

theorem fetchInstr_keeps (h : P s) : P (fetchInstr s).2 := by
  have ho := fetch8_keeps hP h
  unfold fetchInstr
  dsimp only
  cases layout (fetch8 s).1
  case implied | undoc => exact ho
  case byte => exact fetch8_keeps hP ho
  case word => exact fetch8_keeps hP (fetch8_keeps hP ho)
  case padded => exact hP.setPc ho

theorem charge_keeps {n : Nat} {r : Result} (h : OnNext P r) : OnNext P (charge n r) := by
  cases r
  case next u => exact onNext_next (hP.charges (h u rfl))
  case fault => exact fun _ e => nomatch e
  case refused => exact fun _ e => nomatch e

end Operations

section Boundary

variable {P : State → Prop} (hP : StepKeeps P) {s : State}
include hP

theorem controlMoves_keeps : ∀ (ms : List ControlMove) {s : State}, P s → P (controlMoves ms s)
  | [], _, h => h
  | _ :: ms, _, h => controlMoves_keeps ms (hP.control h)

theorem serviceIrq_keeps (h : P s) : P (serviceIrq s) := by
  unfold serviceIrq
  split_ifs
  · exact hP.charges (enterHandler_keeps hP.toExecKeeps id h)
  · exact h

theorem serviceNmi_keeps (h : P s) : P (serviceNmi s) := by
  unfold serviceNmi
  split_ifs
  · exact hP.charges (enterHandler_keeps hP.toExecKeeps hP.nmiCleared h)
  · exact h

theorem boundary_keeps (h : P s) : P (boundary s) := by
  have hdrained : P (drainControl (hostTurn s)) := controlMoves_keeps hP _ (hP.drained (hP.turn h))
  exact serviceNmi_keeps hP (hP.turn (serviceIrq_keeps hP hdrained))

/-- Every step keeps the property. -/
theorem step_keeps (h : P s) : OnNext P (step s) :=
  charge_keeps hP.toExecKeeps (exec_keeps hP.toExecKeeps _ (fetchInstr_keeps hP.toExecKeeps (boundary_keeps hP h)))

end Boundary

end Sys2Proof.Machine
end

section
/-! The two properties that settle what no instruction and no step writes. -/

namespace Sys2Proof.Machine

theorem InputsKept.refl (s : State) : InputsKept s s := ⟨rfl, rfl, rfl, rfl, rfl, rfl, rfl⟩

/-- A state with the inputs of an idle one is idle. -/
theorem InputsKept.hostIdle {s t : State} (h : InputsKept s t) (hs : s.hostIdle) : t.hostIdle := by
  obtain ⟨-, -, -, -, -, hturns, -⟩ := h
  exact hturns.trans hs

/-- With an idle host, no write of an instruction reaches the inputs. -/
theorem execKeeps_inputsKept {s : State} (hs : s.hostIdle) : ExecKeeps (InputsKept s) where
  turn h := (hostTurn_idle (h.hostIdle hs)).symm ▸ h
  setA h := h
  setX h := h
  setY h := h
  setSp h := h
  setPc h := h
  setBit _ _ h := h
  setP h := h
  setPia h := h
  setByte h := h
  charges h := h

/-- The ROM images stay as they are, whatever the host does: no host move and no control move writes them (R6). -/
theorem stepKeeps_roms (r : Roms) : StepKeeps fun s => s.roms = r where
  turn h := (hostTurn_roms _).trans h
  setA h := h
  setX h := h
  setY h := h
  setSp h := h
  setPc h := h
  setBit _ _ h := h
  setP h := h
  setPia h := h
  setByte h := h
  charges h := h
  control {m s} h := by
    obtain ⟨-, -, -, hroms⟩ := controlMoves_inputs [m] s
    exact hroms.trans h
  drained h := h
  nmiCleared h := h

end Sys2Proof.Machine
end

section

open Sys2Proof Sys2Proof.Machine

/-- Settles O23: `truncate` is `reject` on the bytes that fit, and a load only writes from its start upwards. -/
theorem overflowingLoadNeverWraps : Obligations.OverflowingLoadNeverWraps := by
  unfold Obligations.OverflowingLoadNeverWraps
  intro m bytes start hover
  have hfits : start.toNat + (bytes.take (65536 - start.toNat)).length ≤ 65536 := by
    have hroom := List.length_take_le (65536 - start.toNat) bytes
    have hstart := start.isLt
    omega
  refine ⟨Memory.loadImage_reject_overflows hover m, ?_, fun b hb => Memory.read_storeFrom_below b bytes _ m hb⟩
  rw [Memory.loadImage_reject_fits hfits]
  exact (Memory.storeFrom_take bytes start.toNat m).symm

/-- Settles O26: the host's moves keep the CPU's part of the state one by one; the coming turns among it. -/
theorem hostMovesLeaveTheCpu : Obligations.HostMovesLeaveTheCpu := by
  unfold Obligations.HostMovesLeaveTheCpu
  refine ⟨fun ms s => ?_, fun _ _ => rfl, fun _ => rfl, fun _ _ => rfl, fun _ => boundary_uninterrupted⟩
  obtain ⟨ha, hx, hy, hsp, hpc, hp, hcycles⟩ := hostMoves_cpuKept ms s
  exact ⟨⟨ha, hx, hy, hsp, hpc⟩, hp, hcycles, hostMoves_hostTurns ms s, hostMoves_roms ms s⟩

/-- Settles O56: with an idle host `InputsKept` is kept by every instruction, and the ROM images by every step. -/
theorem noInstructionWritesTheInputs : Obligations.NoInstructionWritesTheInputs := by
  unfold Obligations.NoInstructionWritesTheInputs
  exact ⟨fun i s t hs => exec_keeps (execKeeps_inputsKept hs) i (InputsKept.refl s) t,
    fun s t => step_keeps (stepKeeps_roms s.roms) rfl t⟩

end

section
/-! The invariant of every step: the walk of `StepKeeps` at `State.Inv`. -/

namespace Sys2Proof.Machine

theorem machineReset_inv {s : State} (h : s.Inv) : (machineReset s).Inv := by
  obtain ⟨hmem, -, -, hp, -⟩ := machineReset_frame s
  have hreset : (s.withMem (s.mem.reset s.roms)).Inv := ⟨Memory.wf_reset _ _ h.1, h.2⟩
  exact Inv_of_eq (setFlag_inv (k := bitI) (b := true) hreset (by decide) (by decide)) hmem hp

theorem controlMove_inv {m : ControlMove} {s : State} (h : s.Inv) : (controlMove m s).Inv := by
  cases m
  case machineReset => exact machineReset_inv h
  case importState c => exact Inv_of_eq (writeP_inv (v := c.p) h) rfl rfl
  case exportState => exact h

/-- Only a byte store and a machine reset write memory, and each keeps the canonical form; every write of `P` keeps bit 5
(R18, R21). -/
theorem stepKeeps_inv : StepKeeps State.Inv where
  turn h := hostTurn_inv h
  setA h := h
  setX h := h
  setY h := h
  setSp h := h
  setPc h := h
  setBit hk h5 h := setFlag_inv h hk h5
  setP h := writeP_inv h
  setPia h := h
  setByte h := ⟨Memory.wf_write _ _ _ h.1, h.2⟩
  charges h := h
  control h := controlMove_inv h
  drained h := h
  nmiCleared h := h

end Sys2Proof.Machine
end

section

open Sys2Proof Sys2Proof.Machine

/-- Settles O9: the invariant is one of the properties that every primitive write and every control move keeps. -/
theorem stepKeepsTheInvariant : Obligations.StepKeepsTheInvariant := by
  unfold Obligations.StepKeepsTheInvariant
  exact fun s t hs => step_keeps stepKeeps_inv hs t

/-- Settles O10: the memory of `State.reset` lists no byte, and its `P` is 0x24. -/
theorem resetMeetsTheInvariant : Obligations.ResetMeetsTheInvariant := by
  unfold Obligations.ResetMeetsTheInvariant
  exact ⟨reset_mem_wf, by decide⟩

end

section
/-! Noninterference of the four cells under the PIA (R21, R26, C5). A state operation that never looks at memory commutes
with replacing it (`MemoryBlind`), so it maps states that differ in those cells to such states; the accesses are the only
other operations, and they answer alike in both. The walk goes through the operations as `step_keeps` does, two states at a
time. -/

namespace Sys2Proof.Machine

/-- The operation does not look at memory: it does the same whatever memory stands in the state, and leaves it there. -/
def MemoryBlind (f : State → State) : Prop := ∀ m s, f (s.withMem m) = (f s).withMem m

/-- Two answers of a read: one value, and states that differ at most in the four cells. -/
structure ReadsAlike {α : Type} (p q : α × State) : Prop where
  value : q.1 = p.1
  state : SameButPiaCells p.2 q.2

/-- Where one result goes on, so does the other, to a state that differs at most in the four cells. -/
def ResultsAlike (r r' : Result) : Prop := ∀ u, r = .next u → ∃ u', r' = .next u' ∧ SameButPiaCells u u'

theorem resultsAlike_next {u u' : State} (h : SameButPiaCells u u') : ResultsAlike (.next u) (.next u') := by
  rintro _ ⟨⟩
  exact ⟨u', rfl, h⟩

/-! ### The relation and the operations that do not look at memory -/

/-- The second state is the first with another memory, which reads alike outside the PIA. -/
theorem sameButPiaCells_iff {s t : State} :
    SameButPiaCells s t ↔ ∃ m, t = s.withMem m ∧ ∀ b, isPia b = false → Memory.read m b = s.mem.read b := by
  constructor
  · rintro ⟨heq, hread⟩
    exact ⟨t.mem, by rw [← heq]; rfl, hread⟩
  · rintro ⟨m, rfl, hread⟩
    exact ⟨rfl, hread⟩

namespace SameButPiaCells

variable {s t : State}

/-- What does not depend on memory is the same in both states. -/
theorem observe {α : Type} (h : SameButPiaCells s t) (g : State → α) (hg : ∀ m u, g (u.withMem m) = g u) :
    g t = g s := by
  obtain ⟨m, rfl, -⟩ := sameButPiaCells_iff.mp h
  exact hg m s

theorem map (h : SameButPiaCells s t) {f : State → State} (hf : MemoryBlind f) : SameButPiaCells (f s) (f t) := by
  obtain ⟨m, rfl, hread⟩ := sameButPiaCells_iff.mp h
  have hmem : (f s).mem = s.mem := (congrArg State.mem (hf s.mem s)).trans rfl
  exact sameButPiaCells_iff.mpr ⟨m, hf m s, hmem ▸ hread⟩

theorem setByte (h : SameButPiaCells s t) (a : Addr) (v : Byte) :
    SameButPiaCells (s.withMem (s.mem.write a v)) (t.withMem (t.mem.write a v)) := by
  obtain ⟨m, rfl, hread⟩ := sameButPiaCells_iff.mp h
  refine ⟨rfl, fun b hb => ?_⟩
  simp only [State.withMem_mem, Memory.read_write, hread b hb]

/-- A byte access answers alike: at the four addresses it asks the PIA (R26). -/
theorem peek_eq (h : SameButPiaCells s t) (a : Addr) : t.peek a = s.peek a := by
  obtain ⟨m, rfl, hread⟩ := sameButPiaCells_iff.mp h
  by_cases ha : isPia a = true
  · simp [State.peek, ha]
  · simp [State.peek, ha, hread a (Bool.not_eq_true _ ▸ ha)]

end SameButPiaCells

namespace ReadsAlike

variable {α β : Type} {p q : α × State}

/-- A read after a read. -/
theorem bind (h : ReadsAlike p q) {f : α → State → β × State}
    (hf : ∀ v {s t}, SameButPiaCells s t → ReadsAlike (f v s) (f v t)) : ReadsAlike (f p.1 p.2) (f q.1 q.2) := by
  rw [h.value]
  exact hf p.1 h.state

/-- An operation on what a read gives. -/
theorem run (h : ReadsAlike p q) {f : α → State → State}
    (hf : ∀ v {s t}, SameButPiaCells s t → SameButPiaCells (f v s) (f v t)) :
    SameButPiaCells (f p.1 p.2) (f q.1 q.2) := by
  rw [h.value]
  exact hf p.1 h.state

/-- An operation on what a read gives that does not look at memory itself. -/
theorem map (h : ReadsAlike p q) {f : α → State → State} (hf : ∀ v, MemoryBlind (f v)) :
    SameButPiaCells (f p.1 p.2) (f q.1 q.2) := h.run fun v _ _ hs => hs.map (hf v)

end ReadsAlike

/-! ### The host -/

theorem hostMove_alike {s t : State} (m : HostMove) (h : SameButPiaCells s t) :
    SameButPiaCells (hostMove m s) (hostMove m t) := by
  cases m
  case storeByte a v => exact h.setByte a v
  all_goals exact h.map (fun _ _ => rfl)

theorem hostMoves_alike : ∀ (ms : List HostMove) {s t : State}, SameButPiaCells s t →
    SameButPiaCells (hostMoves ms s) (hostMoves ms t)
  | [], _, _, h => h
  | m :: ms, _, _, h => hostMoves_alike ms (hostMove_alike m h)

theorem hostTurn_alike {s t : State} (h : SameButPiaCells s t) : SameButPiaCells (hostTurn s) (hostTurn t) := by
  have hturns : t.hostTurns = s.hostTurns := h.observe State.hostTurns fun _ _ => rfl
  unfold hostTurn
  rw [hturns]
  cases s.hostTurns
  case nil => exact h
  case cons ms rest => exact hostMoves_alike ms (h.map (f := State.withHostTurns rest) fun _ _ => rfl)

/-! ### Addition and subtraction: which mode they work in does not depend on memory -/

theorem adcOn_blind (v : Byte) : MemoryBlind (adcOn v) := fun m s => by
  unfold adcOn
  rw [State.withMem_flagD]
  cases s.flagD <;> rfl

theorem sbcOn_blind (v : Byte) : MemoryBlind (sbcOn v) := fun m s => by
  unfold sbcOn
  rw [State.withMem_flagD]
  cases s.flagD <;> rfl

section Operations

variable {s t : State} (h : SameButPiaCells s t)
include h

/-! ### The accesses -/

theorem memRead_alike (a : Addr) : ReadsAlike (memRead a s) (memRead a t) := by
  have hturn := hostTurn_alike h
  rw [memRead, memRead, busRead_eq, busRead_eq]
  exact ⟨hturn.peek_eq a, hturn.map (f := fun u => u.withPia (u.pia.afterRead a)) fun _ _ => rfl⟩

theorem busWrite_alike (a : Addr) (v : Byte) : SameButPiaCells (busWrite a v s) (busWrite a v t) := by
  have hprotected : t.writeProtected a = s.writeProtected a := h.observe (fun u => u.writeProtected a) fun _ _ => rfl
  unfold busWrite
  rw [hprotected]
  split_ifs
  · exact h.map (f := fun u => u.withPia (u.pia.write a v)) fun _ _ => rfl
  · exact h
  · exact h.setByte a v

theorem memWrite_alike (a : Addr) (v : Byte) : SameButPiaCells (memWrite a v s) (memWrite a v t) :=
  busWrite_alike (hostTurn_alike h) a v

theorem readTwo_alike (lo hi : Addr) : ReadsAlike (readTwo lo hi s) (readTwo lo hi t) :=
  (memRead_alike h lo).bind (f := fun l u => (addrOf (memRead hi u).1 l, (memRead hi u).2)) fun l _ _ hu =>
    ⟨congrArg (addrOf · l) (memRead_alike hu hi).value, (memRead_alike hu hi).state⟩

/-- A push at the stack pointer both states have. -/
theorem push8_alike (v : Byte) : SameButPiaCells (push8 v s) (push8 v t) := by
  have hsp : t.sp = s.sp := h.observe State.sp fun _ _ => rfl
  unfold push8
  rw [hsp]
  exact (memWrite_alike h _ v).map (f := fun u => u.withSp (u.sp - 1#8)) fun _ _ => rfl

theorem push16_alike (w : Addr) : SameButPiaCells (push16 w s) (push16 w t) :=
  push8_alike (push8_alike h _) _

theorem pull8_alike : ReadsAlike (pull8 s) (pull8 t) := by
  have hsp : t.sp = s.sp := h.observe State.sp fun _ _ => rfl
  unfold pull8
  rw [hsp]
  exact memRead_alike (h.map fun _ _ => rfl) _

theorem pull16_alike : ReadsAlike (pull16 s) (pull16 t) :=
  (pull8_alike h).bind (f := fun l u => (addrOf (pull8 u).1 l, (pull8 u).2)) fun l _ _ hu =>
    ⟨congrArg (addrOf · l) (pull8_alike hu).value, (pull8_alike hu).state⟩

theorem fetch8_alike : ReadsAlike (fetch8 s) (fetch8 t) := by
  have hpc : t.pc = s.pc := h.observe State.pc fun _ _ => rfl
  unfold fetch8
  rw [hpc]
  have hread := memRead_alike h s.pc
  exact ⟨hread.value, hread.state.map (f := fun u => u.withPc (u.pc + 1#16)) fun _ _ => rfl⟩

/-! ### The operand forms -/

theorem resolve_alike (m : AddrMode) : ReadsAlike (resolve m s) (resolve m t) := by
  obtain ⟨mem, rfl, -⟩ := sameButPiaCells_iff.mp h
  cases m
  case zp | zpx | zpy | abs | absxw | absyw => exact ⟨rfl, h⟩
  case absx | absy => exact ⟨rfl, h.map fun _ _ => rfl⟩
  case indx => exact readTwo_alike h _ _
  case indy =>
    refine (readTwo_alike h _ _).bind (f := fun b u => indexedRead b u.y u) fun b u u' hu => ?_
    obtain ⟨mem, rfl, -⟩ := sameButPiaCells_iff.mp hu
    exact ⟨rfl, hu.map fun _ _ => rfl⟩
  case indyw =>
    exact (readTwo_alike h _ _).bind (f := fun b u => (b + zext16 u.y, u)) fun b _ _ hu =>
      ⟨hu.observe (fun u => b + zext16 u.y) fun _ _ => rfl, hu⟩

theorem readSource_alike (r : Source) : ReadsAlike (readSource r s) (readSource r t) := by
  cases r
  case imm => exact ⟨rfl, h⟩
  case mem m => exact (resolve_alike h m).bind fun a _ _ hu => memRead_alike hu a

theorem jumpTarget_alike (e : JmpOp) : ReadsAlike (jumpTarget e s) (jumpTarget e t) := by
  cases e
  case abs => exact ⟨rfl, h⟩
  case ind => exact readTwo_alike h _ _

theorem onSource_alike {f : Byte → State → State} (r : Source) (hf : ∀ v, MemoryBlind (f v)) :
    ResultsAlike (onSource r f s) (onSource r f t) :=
  resultsAlike_next ((readSource_alike h r).map hf)

theorem storeAt_alike {v : State → Byte} (m : AddrMode) (hv : ∀ m u, v (u.withMem m) = v u) :
    ResultsAlike (storeAt m v s) (storeAt m v t) := by
  refine resultsAlike_next ((resolve_alike h m).run (f := fun a u => memWrite a (v u) u) fun a u u' hu => ?_)
  rw [hu.observe v hv]
  exact memWrite_alike hu a (v u)

theorem modifyAt_alike {f : Byte → State → Byte × State} (m : AddrMode)
    (hvalue : ∀ v m u, (f v (u.withMem m)).1 = (f v u).1) (hstate : ∀ v, MemoryBlind fun u => (f v u).2) :
    ResultsAlike (modifyAt m f s) (modifyAt m f t) := by
  obtain ⟨haddr, hresolved⟩ := resolve_alike h m
  have hread := memRead_alike hresolved (resolve m s).1
  unfold modifyAt
  dsimp only
  rw [haddr]
  refine resultsAlike_next (hread.run (f := fun v u => memWrite _ (f v u).1 (f v u).2) fun v u u' hu => ?_)
  rw [hu.observe (fun u => (f v u).1) (hvalue v)]
  exact memWrite_alike (hu.map (hstate v)) _ _

theorem shiftOn_alike (f : Byte → Bool → ShiftResult) (p : Place) : ResultsAlike (shiftOn f p s) (shiftOn f p t) := by
  unfold shiftOn
  cases p
  case acc =>
    exact resultsAlike_next
      (h.map (f := fun u => (u.shiftFlags (f u.a u.flagC)).withA (f u.a u.flagC).r) fun _ _ => rfl)
  case mem m => exact modifyAt_alike h m (fun _ _ _ => rfl) fun _ _ _ => rfl

theorem branchIf_alike (cond : Bool) (d : Byte) : ResultsAlike (branchIf cond d s) (branchIf cond d t) := by
  cases cond
  · exact resultsAlike_next h
  · exact resultsAlike_next (h.map
      (f := fun u => (u.addCycles (branchPenalty u.pc (branchTarget d u))).withPc (branchTarget d u)) fun _ _ => rfl)

/-! ### The handlers -/

theorem enterHandler_alike (e : Entry) : SameButPiaCells (enterHandler e s) (enterHandler e t) := by
  have hpc : t.pc = s.pc := h.observe State.pc fun _ _ => rfl
  have hpushed := push16_alike h s.pc
  have hstatus := hpushed.observe e.status fun _ _ => by cases e <;> rfl
  have hentered := (push8_alike hpushed (e.status (push16 s.pc s))).map
    (f := fun u => e.acknowledge (u.setFlag bitI true)) fun _ _ => by cases e <;> rfl
  unfold enterHandler memRead16
  dsimp only
  rw [hpc, hstatus]
  exact (readTwo_alike hentered _ _).map (f := State.withPc) fun _ _ _ => rfl

theorem returnFromHandler_alike : SameButPiaCells (returnFromHandler s) (returnFromHandler t) := by
  have hstatus := (pull8_alike h).map (f := State.writeP) fun _ _ _ => rfl
  exact (pull16_alike hstatus).map (f := State.withPc) fun _ _ _ => rfl

/-! ### The instructions and the fetch -/

/-- Every instruction: it is an operation above, or it does not look at memory. -/
theorem exec_alike (i : Instr) : ResultsAlike (exec i s) (exec i t) := by
  obtain ⟨mem, rfl, hread⟩ := sameButPiaCells_iff.mp h
  cases i
  case lda | ldx | ldy | cmp | cpx | cpy =>
    dsimp only [exec, execLda, execLdx, execLdy, execCmp, execCpx, execCpy]
    exact onSource_alike h _ fun _ _ _ => rfl
  case and | ora | eor | bit => exact onSource_alike h _ fun _ _ _ => rfl
  case adc => exact onSource_alike h _ adcOn_blind
  case sbc => exact onSource_alike h _ sbcOn_blind
  case sta | stx | sty => exact storeAt_alike h _ fun _ _ => rfl
  case asl | lsr | rol | ror => exact shiftOn_alike h _ _
  case inc | dec =>
    dsimp only [exec, execInc, execDec]
    exact modifyAt_alike h _ (fun _ _ _ => rfl) fun _ _ _ => rfl
  case inx | iny | dex | dey | tax | tay | txa | tya | txs | tsx => exact resultsAlike_next ⟨rfl, hread⟩
  case clc | sec | cli | sei | clv | cld | sed => exact resultsAlike_next ⟨rfl, hread⟩
  case nop | unop1 | unop2 | unop3 | uhang => exact resultsAlike_next ⟨rfl, hread⟩
  case pha | php => exact resultsAlike_next (push8_alike h _)
  case pla =>
    exact resultsAlike_next ((pull8_alike h).map (f := fun v u => (u.withA v).setNZ v) fun _ _ _ => rfl)
  case plp => exact resultsAlike_next ((pull8_alike h).map (f := State.writeP) fun _ _ _ => rfl)
  case brk => exact resultsAlike_next (enterHandler_alike (h.map (f := State.setFlag bitB true) fun _ _ => rfl) .brk)
  case rti => exact resultsAlike_next (returnFromHandler_alike h)
  case jmp e => exact resultsAlike_next ((jumpTarget_alike h e).map (f := State.withPc) fun _ _ _ => rfl)
  case jsr a => exact resultsAlike_next ((push16_alike h _).map (f := State.withPc a) fun _ _ => rfl)
  case rts =>
    exact resultsAlike_next ((pull16_alike h).map (f := fun w u => u.withPc (w + 1#16)) fun _ _ _ => rfl)
  case bpl | bmi | bvc | bvs | bcc | bcs | bne | beq => exact branchIf_alike h _ _

theorem fetchInstr_alike : ReadsAlike (fetchInstr s) (fetchInstr t) := by
  obtain ⟨hop, hu⟩ := fetch8_alike h
  unfold fetchInstr
  dsimp only
  rw [hop]
  cases layout (fetch8 s).1
  case implied | undoc => exact ⟨rfl, hu⟩
  case byte k => exact (fetch8_alike hu).bind (f := fun d u => (k d, u)) fun _ _ _ hv => ⟨rfl, hv⟩
  case word k =>
    refine (fetch8_alike hu).bind (f := fun l u => (k (addrOf (fetch8 u).1 l), (fetch8 u).2)) fun l _ _ hv => ?_
    exact (fetch8_alike hv).bind (f := fun h u => (k (addrOf h l), u)) fun _ _ _ hw => ⟨rfl, hw⟩
  case padded => exact ⟨rfl, hu.map (f := fun u => u.withPc (u.pc + 1#16)) fun _ _ => rfl⟩

end Operations

/-! ### The fetch boundary -/

theorem charge_alike {r r' : Result} (n : Nat) (h : ResultsAlike r r') : ResultsAlike (charge n r) (charge n r') := by
  cases r
  case next u =>
    obtain ⟨u', rfl, hu⟩ := h u rfl
    exact resultsAlike_next (hu.map (f := State.addCycles n) fun _ _ => rfl)
  case fault => exact fun _ e => nomatch e
  case refused => exact fun _ e => nomatch e

/-- Memory reset keeps no byte but those of 0xF000 to 0xFEFF, where the PIA is not (R155). -/
theorem Memory.read_reset_congr {m m' : Memory} (h : ∀ b, isPia b = false → read m' b = read m b) (r : Roms)
    (b : Addr) : (reset r m').read b = (reset r m).read b := by
  have hkept : 0xF000 ≤ b.toNat → lookup m' b.toNat = lookup m b.toNat := fun hb => by
    refine h b (Bool.eq_false_iff.mpr fun hpia => ?_)
    obtain rfl | rfl | rfl | rfl := (isPia_iff b).mp hpia <;> exact absurd hb (by decide)
  unfold read
  rw [lookup_reset r m' _ b.isLt, lookup_reset r m _ b.isLt]
  split_ifs
  · rfl
  · rfl
  · exact hkept (by omega)
  · rfl

section Boundary

variable {s t : State} (h : SameButPiaCells s t)
include h

theorem cpuReset_alike : SameButPiaCells (cpuReset s) (cpuReset t) := by
  have hset := h.map (f := fun u => (u.setFlag bitI true).withSp 0xFF#8) fun _ _ => rfl
  unfold cpuReset
  dsimp only
  rw [hset.peek_eq, hset.peek_eq]
  exact hset.map fun _ _ => rfl

theorem machineReset_alike : SameButPiaCells (machineReset s) (machineReset t) := by
  obtain ⟨mem, rfl, hread⟩ := sameButPiaCells_iff.mp h
  have hmem : SameButPiaCells (s.withMem (s.mem.reset s.roms)) (s.withMem (mem.reset s.roms)) :=
    ⟨rfl, fun b _ => Memory.read_reset_congr hread s.roms b⟩
  exact cpuReset_alike (hmem.map
    (f := fun u => (u.withPia Pia.reset).withCycles (Config.cyclesAfterReset u.cycles)) fun _ _ => rfl)

theorem controlMove_alike (m : ControlMove) : SameButPiaCells (controlMove m s) (controlMove m t) := by
  cases m
  case machineReset => exact machineReset_alike h
  case importState c => exact h.map (f := importState c) fun _ _ => rfl
  case exportState => exact h

omit h in
theorem controlMoves_alike : ∀ (ms : List ControlMove) {s t : State}, SameButPiaCells s t →
    SameButPiaCells (controlMoves ms s) (controlMoves ms t)
  | [], _, _, h => h
  | m :: ms, _, _, h => controlMoves_alike ms (controlMove_alike h m)

theorem drainControl_alike : SameButPiaCells (drainControl s) (drainControl t) := by
  obtain ⟨mem, rfl, -⟩ := sameButPiaCells_iff.mp h
  exact controlMoves_alike _ (h.map (f := State.withPendingControl []) fun _ _ => rfl)

theorem serviceIrq_alike : SameButPiaCells (serviceIrq s) (serviceIrq t) := by
  have htaken : (t.irqLine && !t.flagI) = (s.irqLine && !s.flagI) :=
    h.observe (fun u => u.irqLine && !u.flagI) fun _ _ => rfl
  unfold serviceIrq
  rw [htaken]
  split_ifs
  · exact (enterHandler_alike h .irq).map fun _ _ => rfl
  · exact h

theorem serviceNmi_alike : SameButPiaCells (serviceNmi s) (serviceNmi t) := by
  have htaken : t.nmiPending = s.nmiPending := h.observe State.nmiPending fun _ _ => rfl
  unfold serviceNmi
  rw [htaken]
  split_ifs
  · exact (enterHandler_alike h .nmi).map fun _ _ => rfl
  · exact h

theorem boundary_alike : SameButPiaCells (boundary s) (boundary t) :=
  serviceNmi_alike (hostTurn_alike (serviceIrq_alike (drainControl_alike (hostTurn_alike h))))

theorem step_alike : ResultsAlike (step s) (step t) := by
  obtain ⟨hinstr, hu⟩ := fetchInstr_alike (boundary_alike h)
  unfold step
  dsimp only
  rw [hinstr]
  exact charge_alike _ (exec_alike hu _)

end Boundary

end Sys2Proof.Machine
end

section

open Sys2Proof Sys2Proof.Machine

/-- Settles O21: every operation of a step answers alike in two states that differ only under the PIA. -/
theorem cellsUnderThePiaAreInvisible : Obligations.CellsUnderThePiaAreInvisible := by
  unfold Obligations.CellsUnderThePiaAreInvisible
  exact fun s s' t hs => step_alike hs t

end

section
/-! A push, and a pull after it, with an idle host (R12, R15, R16). -/

namespace Sys2Proof.Machine

variable {s : State} (hidle : s.hostIdle) (v : Byte)
include hidle

theorem push8_hostIdle : (push8 v s).hostIdle := by
  rw [push8_idle hidle]
  exact hidle

theorem push8_pushed : Pushed [v] s (push8 v s) := by
  rw [push8_idle hidle]
  refine ⟨rfl, fun n hn => ?_, fun b hb => ?_⟩
  · obtain rfl : n = 0 := by simpa using hn
    simp
  · have hne : b ≠ stackAddr s.sp := by simpa using hb 0 (by simp)
    simp [Memory.read_write, hne]

/-- The pull reads where the push stored: SP is back before the read. -/
theorem pull8_push8 : pull8 (push8 v s) = (v, (push8 v s).withSp s.sp) := by
  have hsp : (push8 v s).sp + 1#8 = s.sp := by simp [push8_idle hidle]
  have hstored : (push8 v s).mem.read (stackAddr s.sp) = v := by simp [push8_idle hidle]
  rw [pull8_idle (push8_hostIdle hidle v), hsp, hstored]

end Sys2Proof.Machine
end

section

open Sys2Proof Sys2Proof.Machine

/-- Settles O25: a push and a pull with an idle host are the equations `push8_idle` and `pull8_idle`. -/
theorem pushAndPull : Obligations.PushAndPull := by
  unfold Obligations.PushAndPull
  intro s v hidle
  rw [pull8_push8 hidle v, pull8_idle hidle]
  have hsp : (push8 v s).sp.toNat = (s.sp.toNat + 255) % 256 := by
    rw [push8_idle hidle, State.withSp_sp, BitVec.toNat_sub]
    exact congrArg (· % 256) (Nat.add_comm 255 s.sp.toNat)
  have hpage : (stackAddr s.sp).toNat = 0x0100 + s.sp.toNat := toNat_addrOf 0x01#8 s.sp
  exact ⟨push8_pushed hidle v, hsp, hpage, rfl, rfl, BitVec.toNat_add s.sp 1#8, rfl, rfl⟩

end

section
/-! What each instruction can write among the registers and the flags (R11, R12, R20): the lists, and the walk through the
operations that shows that an instruction writes nothing that is not in its lists. -/

namespace Sys2Proof.Machine

/-- The byte registers beside `P` (R11, R12). -/
inductive ByteReg where
  | a
  | x
  | y
  | sp

def State.reg (s : State) : ByteReg → Byte
  | .a => s.a
  | .x => s.x
  | .y => s.y
  | .sp => s.sp

def State.withReg (r : ByteReg) (v : Byte) (s : State) : State :=
  match r with
  | .a => s.withA v
  | .x => s.withX v
  | .y => s.withY v
  | .sp => s.withSp v

/-- From `s` to `t`, no register but the listed ones and no bit of `P` but the listed ones has changed. -/
structure ChangesAtMost (rs : List ByteReg) (ks : List Nat) (s t : State) : Prop where
  regs : ∀ r, r ∉ rs → t.reg r = s.reg r
  flags : FlagsKept ks s t

/-- A shift or rotate writes A in its accumulator form only (R79 to R82). -/
def shiftRegsWritten : ShiftOp → List ByteReg
  | .acc => [.a]
  | _ => []

/-- The registers an instruction can write; the register-use table of 10_state.md, by instruction. -/
def regsWritten : Instr → List ByteReg
  | .lda _ | .adc _ | .sbc _ | .and _ | .ora _ | .eor _ | .txa | .tya => [.a]
  | .asl m | .lsr m | .rol m | .ror m => shiftRegsWritten m
  | .ldx _ | .inx | .dex | .tax | .tsx => [.x]
  | .ldy _ | .iny | .dey | .tay => [.y]
  | .pha | .php | .plp | .brk | .rti | .jsr _ | .rts | .txs => [.sp]
  | .pla => [.sp, .a]
  | .sta _ | .stx _ | .sty _ | .cmp _ | .cpx _ | .cpy _ | .inc _ | .dec _ | .bit _ | .jmp _
  | .bpl _ | .bmi _ | .bvc _ | .bvs _ | .bcc _ | .bcs _ | .bne _ | .beq _
  | .clc | .sec | .cli | .sei | .clv | .cld | .sed | .nop | .unop1 _ | .unop2 _ | .unop3 _ | .uhang _ => []

/-- The bits of `P` an instruction can write (R20, and N and Z by R19). -/
def flagsWritten : Instr → List Nat
  | .lda _ | .ldx _ | .ldy _ | .and _ | .ora _ | .eor _ | .inc _ | .dec _ | .inx | .iny | .dex | .dey
  | .tax | .txa | .tay | .tya | .tsx | .pla => [bitZ, bitN]
  | .adc _ | .sbc _ => [bitN, bitV, bitZ, bitC]
  | .cmp _ | .cpx _ | .cpy _ => [bitN, bitZ, bitC]
  | .asl _ | .lsr _ | .rol _ | .ror _ => [bitC, bitZ, bitN]
  | .bit _ => [bitZ, bitN, bitV]
  | .plp | .rti => List.range 8
  | .brk => [bitB, bitI]
  | .clc | .sec => [bitC]
  | .cli | .sei => [bitI]
  | .clv => [bitV]
  | .cld | .sed => [bitD]
  | .sta _ | .stx _ | .sty _ | .pha | .php | .jmp _ | .jsr _ | .rts
  | .bpl _ | .bmi _ | .bvc _ | .bvs _ | .bcc _ | .bcs _ | .bne _ | .beq _
  | .txs | .nop | .unop1 _ | .unop2 _ | .unop3 _ | .uhang _ => []

@[simp] theorem mem_shiftRegsWritten {r : ByteReg} {m : ShiftOp} : r ∈ shiftRegsWritten m ↔ m = .acc ∧ r = .a := by
  cases m <;> simp [shiftRegsWritten]

namespace ChangesAtMost

variable {rs rs' : List ByteReg} {ks ks' : List Nat} {s t u : State}

theorem mono (h : ChangesAtMost rs ks s t) (hr : rs ⊆ rs') (hk : ks ⊆ ks') : ChangesAtMost rs' ks' s t :=
  ⟨fun r hr' => h.regs r (mt (@hr r) hr'), fun k hk' => h.flags k (mt (@hk k) hk')⟩

theorem trans (h : ChangesAtMost rs ks s t) (h' : ChangesAtMost rs' ks' t u) :
    ChangesAtMost (rs ++ rs') (ks ++ ks') s u := by
  constructor
  · intro r hr
    rw [List.mem_append, not_or] at hr
    exact (h'.regs r hr.2).trans (h.regs r hr.1)
  · intro k hk
    rw [List.mem_append, not_or] at hk
    exact (h'.flags k hk.2).trans (h.flags k hk.1)

/-- Where registers and `P` are as before, nothing has changed. -/
theorem of_eq (hr : ∀ r, t.reg r = s.reg r) (hp : t.p = s.p) : ChangesAtMost [] [] s t :=
  ⟨fun r _ => hr r, fun k _ => congrArg (·.getLsbD k) hp⟩

end ChangesAtMost

/-! ### The primitive writes and the accesses -/

theorem RegsKept.changesAtMost {s t : State} (h : RegsKept s t) (hp : t.p = s.p) : ChangesAtMost [] [] s t := by
  obtain ⟨ha, hx, hy, hsp, -⟩ := h
  refine .of_eq (fun r => ?_) hp
  cases r
  · exact ha
  · exact hx
  · exact hy
  · exact hsp

theorem CpuKept.changesAtMost {s t : State} (h : CpuKept s t) : ChangesAtMost [] [] s t := by
  obtain ⟨ha, hx, hy, hsp, hpc, hp, -⟩ := h
  exact RegsKept.changesAtMost ⟨ha, hx, hy, hsp, hpc⟩ hp

section Operations

variable (s : State)

theorem withReg_changesAtMost (r : ByteReg) (v : Byte) : ChangesAtMost [r] [] s (s.withReg r v) where
  regs r' h := by
    have hne : r' ≠ r := fun e => h (List.mem_singleton.mpr e)
    cases r <;> cases r' <;> simp [State.reg, State.withReg] at hne ⊢
  flags _ _ := by cases r <;> rfl

theorem withPc_changesAtMost (a : Addr) : ChangesAtMost [] [] s (s.withPc a) := .of_eq (fun r => by cases r <;> rfl) rfl

theorem setFlag_changesAtMost {k : Nat} (hk : k < 8) (b : Bool) : ChangesAtMost [] [k] s (s.setFlag k b) :=
  ⟨fun r _ => by cases r <;> rfl, fun _ hj => flag_setFlag_other hk (fun e => hj (List.mem_singleton.mpr e)) b s⟩

/-- `P` has no bit beyond the eight. -/
theorem writeP_changesAtMost (v : Byte) : ChangesAtMost [] (List.range 8) s (s.writeP v) := by
  refine ⟨fun r _ => by cases r <;> rfl, fun k hk => ?_⟩
  have hge : 8 ≤ k := Nat.not_lt.mp (mt List.mem_range.mpr hk)
  exact (BitVec.getLsbD_of_ge _ _ hge).trans (BitVec.getLsbD_of_ge _ _ hge).symm

theorem setNZ_changesAtMost (v : Byte) : ChangesAtMost [] [bitZ, bitN] s (s.setNZ v) :=
  ⟨fun r _ => by cases r <;> rfl, setNZ_flagsKept v s⟩

theorem setNZC_changesAtMost (o : AluResult) : ChangesAtMost [] [bitN, bitZ, bitC] s (s.setNZC o) :=
  ⟨fun r _ => by cases r <;> rfl, setNZC_flagsKept o s⟩

theorem setNVZC_changesAtMost (o : AluResult) : ChangesAtMost [] [bitN, bitV, bitZ, bitC] s (s.setNVZC o) :=
  ⟨fun r _ => by cases r <;> rfl, setNVZC_flagsKept o s⟩

/-- A register is loaded and N and Z tell of a byte. -/
theorem withReg_setNZ_changesAtMost (r : ByteReg) (v w : Byte) :
    ChangesAtMost [r] [bitZ, bitN] s ((s.withReg r v).setNZ w) :=
  (withReg_changesAtMost s r v).trans (setNZ_changesAtMost _ w)

theorem memRead_changesAtMost (a : Addr) : ChangesAtMost [] [] s (memRead a s).2 := (memRead_cpuKept a s).changesAtMost

theorem readTwo_changesAtMost (lo hi : Addr) : ChangesAtMost [] [] s (readTwo lo hi s).2 :=
  (readTwo_cpuKept lo hi s).changesAtMost

theorem push8_changesAtMost (v : Byte) : ChangesAtMost [.sp] [] s (push8 v s) :=
  (memWrite_cpuKept _ v s).changesAtMost.trans (withReg_changesAtMost _ .sp _)

theorem push16_changesAtMost (w : Addr) : ChangesAtMost [.sp] [] s (push16 w s) :=
  ((push8_changesAtMost s _).trans (push8_changesAtMost _ _)).mono (by simp) (by simp)

theorem pull8_changesAtMost : ChangesAtMost [.sp] [] s (pull8 s).2 :=
  (withReg_changesAtMost s .sp _).trans (memRead_changesAtMost _ _)

theorem pull16_changesAtMost : ChangesAtMost [.sp] [] s (pull16 s).2 :=
  ((pull8_changesAtMost s).trans (pull8_changesAtMost _)).mono (by simp) (by simp)

/-! ### The operand forms -/

theorem resolve_changesAtMost (m : AddrMode) : ChangesAtMost [] [] s (resolve m s).2 := by
  obtain ⟨hregs, hp⟩ := resolve_regsKept m s
  exact hregs.changesAtMost hp

theorem readSource_changesAtMost (r : Source) : ChangesAtMost [] [] s (readSource r s).2 := by
  obtain ⟨hregs, hp⟩ := readSource_regsKept r s
  exact hregs.changesAtMost hp

variable {rs : List ByteReg} {ks : List Nat}

theorem onSource_changesAtMost (r : Source) {f : Byte → State → State} (hf : ∀ v u, ChangesAtMost rs ks u (f v u)) :
    OnNext (ChangesAtMost rs ks s) (onSource r f s) :=
  onNext_next ((readSource_changesAtMost s r).trans (hf _ _))

theorem storeAt_changesAtMost (m : AddrMode) (v : State → Byte) : OnNext (ChangesAtMost [] [] s) (storeAt m v s) :=
  onNext_next ((resolve_changesAtMost s m).trans (memWrite_cpuKept _ _ _).changesAtMost)

theorem modifyAt_changesAtMost (m : AddrMode) {f : Byte → State → Byte × State}
    (hf : ∀ v u, ChangesAtMost rs ks u (f v u).2) : OnNext (ChangesAtMost rs ks s) (modifyAt m f s) := by
  have hread := (resolve_changesAtMost s m).trans (memRead_changesAtMost _ (resolve m s).1)
  exact onNext_next (((hread.trans (hf _ _)).trans (memWrite_cpuKept _ _ _).changesAtMost).mono (by simp) (by simp))

/-! ### The operations on an operand byte -/

theorem putAlu_changesAtMost (o : AluResult) : ChangesAtMost [.a] [bitN, bitV, bitZ, bitC] s (s.putAlu o) :=
  (withReg_changesAtMost s .a o.r).trans (setNVZC_changesAtMost _ o)

theorem adcOn_changesAtMost (v : Byte) : ChangesAtMost [.a] [bitN, bitV, bitZ, bitC] s (adcOn v s) := by
  unfold adcOn
  split_ifs <;> exact putAlu_changesAtMost s _

theorem sbcOn_changesAtMost (v : Byte) : ChangesAtMost [.a] [bitN, bitV, bitZ, bitC] s (sbcOn v s) := by
  unfold sbcOn
  split_ifs <;> exact putAlu_changesAtMost s _

theorem bitOn_changesAtMost (v : Byte) : ChangesAtMost [] [bitZ, bitN, bitV] s (bitOn v s) :=
  ((setFlag_changesAtMost s (by decide) _).trans (setFlag_changesAtMost _ (by decide) _)).trans
    (setFlag_changesAtMost _ (by decide) _)

theorem shiftFlags_changesAtMost (o : ShiftResult) : ChangesAtMost [] [bitC, bitZ, bitN] s (s.shiftFlags o) :=
  (setFlag_changesAtMost s (by decide) _).trans (setNZ_changesAtMost _ _)

theorem shiftOn_changesAtMost (f : Byte → Bool → ShiftResult) (m : ShiftOp) :
    OnNext (ChangesAtMost (shiftRegsWritten m) [bitC, bitZ, bitN] s) (shiftOn f m.place s) := by
  have hmem : ∀ a, OnNext (ChangesAtMost [] [bitC, bitZ, bitN] s) (shiftOn f (.mem a) s) := fun a => by
    unfold shiftOn
    exact modifyAt_changesAtMost s a fun _ _ => shiftFlags_changesAtMost _ _
  cases m
  case acc => exact onNext_next ((shiftFlags_changesAtMost s _).trans (withReg_changesAtMost _ .a _))
  case zp | zpx | abs | absxw => exact hmem _

theorem branchIf_changesAtMost (cond : Bool) (d : Byte) : OnNext (ChangesAtMost [] [] s) (branchIf cond d s) := by
  cases cond
  · exact onNext_next (CpuKept.refl s).changesAtMost
  · exact onNext_next (.of_eq (fun r => by cases r <;> rfl) rfl)

theorem jumpTarget_changesAtMost (e : JmpOp) : ChangesAtMost [] [] s (jumpTarget e s).2 := by
  cases e
  case abs => exact (CpuKept.refl s).changesAtMost
  case ind => exact readTwo_changesAtMost s _ _

/-! ### The handlers -/

/-- BRK's entry has nothing to acknowledge. -/
theorem enterHandler_brk_changesAtMost : ChangesAtMost [.sp] [bitI] s (enterHandler .brk s) := by
  have hpushed := (push16_changesAtMost s s.pc).trans (push8_changesAtMost _ (Entry.brk.status (push16 s.pc s)))
  have hmasked := hpushed.trans (setFlag_changesAtMost _ (k := bitI) (by decide) true)
  have hread := hmasked.trans (readTwo_changesAtMost _ Entry.brk.vector (Entry.brk.vector + 1#16))
  exact (hread.trans (withPc_changesAtMost _ _)).mono (by simp) (by simp)

theorem returnFromHandler_changesAtMost : ChangesAtMost [.sp] (List.range 8) s (returnFromHandler s) := by
  have hstatus := (pull8_changesAtMost s).trans (writeP_changesAtMost _ (pull8 s).1)
  have hpulled := hstatus.trans (pull16_changesAtMost _)
  exact (hpulled.trans (withPc_changesAtMost _ _)).mono (by simp) (by simp)

/-! ### The instructions -/

/-- An instruction writes at most what its lists name. -/
theorem exec_changesAtMost (i : Instr) : OnNext (ChangesAtMost (regsWritten i) (flagsWritten i) s) (exec i s) := by
  cases i
  case lda | and | ora | eor => exact onSource_changesAtMost s _ fun v u => withReg_setNZ_changesAtMost u .a _ _
  case ldx => exact onSource_changesAtMost s _ fun v u => withReg_setNZ_changesAtMost u .x v v
  case ldy => exact onSource_changesAtMost s _ fun v u => withReg_setNZ_changesAtMost u .y v v
  case sta | stx | sty => exact storeAt_changesAtMost s _ _
  case adc => exact onSource_changesAtMost s _ fun v u => adcOn_changesAtMost u v
  case sbc => exact onSource_changesAtMost s _ fun v u => sbcOn_changesAtMost u v
  case cmp | cpx | cpy => exact onSource_changesAtMost s _ fun _ _ => setNZC_changesAtMost _ _
  case bit => exact onSource_changesAtMost s _ fun v u => bitOn_changesAtMost u v
  case asl | lsr | rol | ror => exact shiftOn_changesAtMost s _ _
  case inc | dec =>
    dsimp only [exec, execInc, execDec]
    exact modifyAt_changesAtMost s _ fun _ _ => setNZ_changesAtMost _ _
  case inx | dex | tax | tsx => exact onNext_next (withReg_setNZ_changesAtMost s .x _ _)
  case iny | dey | tay => exact onNext_next (withReg_setNZ_changesAtMost s .y _ _)
  case txa | tya => exact onNext_next (withReg_setNZ_changesAtMost s .a _ _)
  case txs => exact onNext_next (withReg_changesAtMost s .sp _)
  case pha | php => exact onNext_next (push8_changesAtMost s _)
  case pla => exact onNext_next ((pull8_changesAtMost s).trans (withReg_setNZ_changesAtMost _ .a _ _))
  case plp => exact onNext_next ((pull8_changesAtMost s).trans (writeP_changesAtMost _ _))
  case brk =>
    exact onNext_next ((setFlag_changesAtMost s (k := bitB) (by decide) true).trans (enterHandler_brk_changesAtMost _))
  case rti => exact onNext_next (returnFromHandler_changesAtMost s)
  case jmp e => exact onNext_next ((jumpTarget_changesAtMost s e).trans (withPc_changesAtMost _ _))
  case jsr => exact onNext_next ((push16_changesAtMost s _).trans (withPc_changesAtMost _ _))
  case rts => exact onNext_next ((pull16_changesAtMost s).trans (withPc_changesAtMost _ _))
  case bpl | bmi | bvc | bvs | bcc | bcs | bne | beq => exact branchIf_changesAtMost s _ _
  case clc | sec | cli | sei | clv | cld | sed => exact onNext_next (setFlag_changesAtMost s (by decide) _)
  case nop | unop1 => exact onNext_next (CpuKept.refl s).changesAtMost
  case unop2 | unop3 | uhang => exact onNext_next (withPc_changesAtMost s _)

end Operations

end Sys2Proof.Machine
end

section

open Sys2Proof Sys2Proof.Machine

/-- Settles O57: outside its list an instruction keeps every bit of `P`; what is left is which lists name the bit. -/
theorem flagWriters : Obligations.FlagWriters := by
  unfold Obligations.FlagWriters
  intro i s t h hplp hrti
  replace h : FlagsKept (flagsWritten i) s t := (exec_changesAtMost s i t h).flags
  refine ⟨fun hsed hcld => h bitD ?_, fun hsei hcli hbrk => h bitI ?_, fun hbrk => h bitB ?_,
    fun hclv harith hbit => h bitV ?_, fun hsec hclc harith hindex hshift => h bitC ?_⟩
  · cases i
    case sed | cld | plp | rti => contradiction
    all_goals simp [flagsWritten, bitN, bitV, bitB, bitD, bitI, bitZ, bitC]
  · cases i
    case sei | cli | brk | plp | rti => contradiction
    all_goals simp [flagsWritten, bitN, bitV, bitD, bitI, bitZ, bitC]
  · cases i
    case brk | plp | rti => contradiction
    all_goals simp [flagsWritten, bitN, bitV, bitB, bitD, bitI, bitZ, bitC]
  · cases i
    case clv | plp | rti => contradiction
    case adc | sbc => simp at harith
    case bit => simp at hbit
    all_goals simp [flagsWritten, bitN, bitV, bitB, bitD, bitI, bitZ, bitC]
  · cases i
    case sec | clc | plp | rti => contradiction
    case adc | sbc | cmp => simp at harith
    case cpx | cpy => simp at hindex
    case asl | lsr | rol | ror => simp at hshift
    all_goals simp [flagsWritten, bitN, bitV, bitB, bitD, bitI, bitZ, bitC]

/-- Settles O58: outside its list an instruction keeps every register; what is left is which lists name the register. -/
theorem registerWriters : Obligations.RegisterWriters := by
  unfold Obligations.RegisterWriters
  intro i s t h
  replace h : ∀ r, r ∉ regsWritten i → t.reg r = s.reg r := (exec_changesAtMost s i t h).regs
  refine ⟨fun harith hasl hlsr hrol hror hpla htxa htya => h .a ?_, fun hldx hinx hdex htax htsx => h .x ?_,
    fun hldy hiny hdey htay => h .y ?_, fun hpha hphp hpla hplp hbrk hrti hjsr hrts htxs => h .sp ?_⟩
  · cases i
    case pla | txa | tya => contradiction
    case lda | adc | sbc | and | ora | eor => simp at harith
    case asl m | lsr m | rol m | ror m =>
      cases m
      case acc => contradiction
      all_goals simp [regsWritten]
    all_goals simp [regsWritten]
  · cases i
    case inx | dex | tax | tsx => contradiction
    case ldx => simp at hldx
    all_goals simp [regsWritten]
  · cases i
    case iny | dey | tay => contradiction
    case ldy => simp at hldy
    all_goals simp [regsWritten]
  · cases i
    case pha | php | pla | plp | brk | rti | rts | txs =>
      clear hjsr -- `contradiction` would try to decide it over every address
      contradiction
    case jsr => simp at hjsr
    all_goals simp [regsWritten]

end

section
/-! The bus and the bulk operations (R24 to R28, R34, R35): which branch of a byte access is taken, in the integers of the
rules, what each branch does with an idle host, and what memory reads as after a bulk load. -/

namespace Sys2Proof.Machine

/-! ### The tests of R24 and R25 -/

theorem isPia_iff_range (a : Addr) : isPia a = true ↔ 0xD010 ≤ a.toNat ∧ a.toNat ≤ 0xD013 := by
  simp [isPia, BitVec.le_def]

theorem State.writeProtected_iff (s : State) (a : Addr) :
    s.writeProtected a = true ↔ (s.writeProtectHighRom = true ∧ 0xFF00 ≤ a.toNat) ∨
      (s.ramExpansion8k = true ∧ 0x2000 ≤ a.toNat ∧ a.toNat < 0xFF00) := by
  simp [State.writeProtected, BitVec.le_def, BitVec.lt_def, and_assoc]

/-! ### The accesses, with an idle host -/

section Accesses

variable {s : State} (hidle : s.hostIdle) {a : Addr} (v : Byte)
include hidle

theorem memRead_pia (ha : isPia a = true) : memRead a s = ((s.pia.read a).1, s.withPia (s.pia.read a).2) := by
  rw [memRead, hostTurn_idle hidle, busRead, if_pos ha]

theorem memWrite_pia (ha : isPia a = true) : memWrite a v s = s.withPia (s.pia.write a v) := by
  rw [memWrite_idle hidle, busWrite, if_pos ha]

theorem memWrite_dropped (ha : isPia a = false) (hw : s.writeProtected a = true) : memWrite a v s = s := by
  simp [memWrite_idle hidle, busWrite, ha, hw]

theorem memWrite_stored (ha : isPia a = false) (hw : s.writeProtected a = false) :
    memWrite a v s = s.withMem (s.mem.write a v) := by
  simp [memWrite_idle hidle, busWrite, ha, hw]

end Accesses

/-! ### The two gated writes of the PIA, in integers -/

theorem Pia.writeKeyboardControl_eq (v : Byte) (p : Pia) :
    p.writeKeyboardControl v = { p with kbdcr := if p.kbdcr.toNat = 0 then 0x27#8 else v } := by
  have hzero : p.kbdcr.toNat = 0 ↔ p.kbdcr = 0x00#8 := BitVec.toNat_inj (y := 0x00#8)
  unfold Pia.writeKeyboardControl
  simp only [hzero]
  split_ifs <;> rfl

theorem Pia.writeDisplayData_eq (v : Byte) (p : Pia) :
    p.writeDisplayData v = { p with dsp := if p.dspcr.toNat / 4 % 2 = 1 then v else p.dsp } := by
  have hgate : p.dspcr.getLsbD 2 = true ↔ p.dspcr.toNat / 4 % 2 = 1 := by
    simp [BitVec.getLsbD, Nat.testBit_eq_decide_div_mod_eq]
  unfold Pia.writeDisplayData
  simp only [hgate]
  split_ifs <;> rfl

/-! ### A fetch is a read at PC, whatever the host does -/

theorem fetch8_eq_memRead (s : State) :
    fetch8 s = ((memRead s.pc s).1, (memRead s.pc s).2.withPc (s.pc + 1#16)) := by
  obtain ⟨-, -, -, -, hpc, -⟩ := memRead_cpuKept s.pc s
  rw [fetch8, hpc]

/-! ### A bulk load that fits -/

theorem Memory.storeFrom_cons {k : Nat} (hk : k < 65536) (m : Memory) (v : Byte) (vs : List Byte) :
    storeFrom m k (v :: vs) = storeFrom (write m (BitVec.ofNat 16 k) v) (k + 1) vs := if_pos hk

/-- A load writes no address past its last byte. -/
theorem Memory.read_storeFrom_above (b : Addr) : ∀ (vs : List Byte) (k : Nat) (m : Memory),
    k + vs.length ≤ b.toNat → (storeFrom m k vs).read b = m.read b
  | [], _, _, _ => rfl
  | v :: vs, k, m, hb => by
    rw [List.length_cons] at hb
    have hk : k < 65536 := by have := b.isLt; omega
    have hne : b ≠ BitVec.ofNat 16 k := by
      rintro rfl
      rw [BitVec.toNat_ofNat, Nat.mod_eq_of_lt hk] at hb
      omega
    rw [storeFrom_cons hk, read_storeFrom_above b vs (k + 1) _ (by omega), read_write_other _ _ _ _ hne]

/-- The first byte stays where it is stored, for the rest of the load lies above it. -/
theorem Memory.lookup_storeFrom_first {k : Nat} (hk : k < 65536) (m : Memory) (v : Byte) (vs : List Byte) :
    lookup (storeFrom m k (v :: vs)) k = v := by
  have haddr : (BitVec.ofNat 16 k).toNat = k := Nat.mod_eq_of_lt hk
  have hkept := read_storeFrom_below (BitVec.ofNat 16 k) vs (k + 1) (write m (BitVec.ofNat 16 k) v) (by omega)
  rwa [read_write_self, read, haddr, ← storeFrom_cons hk] at hkept

theorem Memory.bytesFrom_storeFrom : ∀ (vs : List Byte) (k : Nat) (m : Memory), k + vs.length ≤ 65536 →
    bytesFrom (storeFrom m k vs) k vs.length = vs
  | [], _, _, _ => rfl
  | v :: vs, k, m, hfits => by
    rw [List.length_cons] at hfits
    have hk : k < 65536 := by omega
    rw [List.length_cons, bytesFrom, lookup_storeFrom_first hk, storeFrom_cons hk,
      bytesFrom_storeFrom vs (k + 1) _ (by omega)]

/-- Where the load fits, the two policies do not differ (R10). -/
theorem Memory.loadImage_fits {bytes : List Byte} {start : Addr} (h : start.toNat + bytes.length ≤ 65536)
    (policy : LoadPolicy) (m : Memory) : loadImage policy bytes start m = storeFrom m start.toNat bytes := by
  cases policy
  case truncate => rfl
  case reject => exact loadImage_reject_fits h m

end Sys2Proof.Machine
end

section

open Sys2Proof Sys2Proof.Machine

/-- Settles O19: one lemma per branch of `busWrite`, once its two tests are in the integers of R25 to R28. -/
theorem writeReachesStoresOrDrops : Obligations.WriteReachesStoresOrDrops := by
  unfold Obligations.WriteReachesStoresOrDrops
  intro s a v hidle
  split_ifs with hpia hrom hram
  · exact memWrite_pia hidle v ((isPia_iff_range a).mpr hpia)
  all_goals have hout : isPia a = false := Bool.eq_false_iff.mpr (mt (isPia_iff_range a).mp hpia)
  · exact memWrite_dropped hidle v hout ((s.writeProtected_iff a).mpr (.inl hrom))
  · exact memWrite_dropped hidle v hout ((s.writeProtected_iff a).mpr (.inr hram))
  · have hopen : s.writeProtected a = false :=
      Bool.eq_false_iff.mpr fun hw => ((s.writeProtected_iff a).mp hw).elim hrom hram
    rw [memWrite_stored hidle v hout hopen]
    exact ⟨Memory.read_write_self _ _ _, fun b hb => Memory.read_write_other _ _ _ _ hb, rfl⟩

/-- Settles O22: a range that ends at an address fits, so both policies store byte by byte, upwards from the start. -/
theorem snapshotReturnsTheLoadedBytes : Obligations.SnapshotReturnsTheLoadedBytes := by
  unfold Obligations.SnapshotReturnsTheLoadedBytes
  intro m policy bytes start last _ hrange
  have hlast := last.isLt
  have hfits : start.toNat + bytes.length ≤ 65536 := by omega
  have hlength : last.toNat + 1 - start.toNat = bytes.length := by omega
  rw [Memory.loadImage_fits hfits, Memory.snapshot, hlength]
  refine ⟨Memory.bytesFrom_storeFrom bytes _ m hfits, ?_⟩
  rintro b (hbelow | habove)
  · exact Memory.read_storeFrom_below b bytes _ m hbelow
  · exact Memory.read_storeFrom_above b bytes _ m (by omega)

/-- Settles O18: the two branches of `busRead`; the other reads are defined as such reads, and a fetch moves PC from where
it was before its read. -/
theorem readAnswersTheStoredByte : Obligations.ReadAnswersTheStoredByte := by
  unfold Obligations.ReadAnswersTheStoredByte
  intro s a hidle
  refine ⟨fun hout => memRead_ordinary hidle (Bool.eq_false_iff.mpr fun ha => ?_),
    fun hlow hhigh => memRead_pia hidle ((isPia_iff_range a).mpr ⟨hlow, hhigh⟩),
    fetch8_eq_memRead s, fun _ => rfl, rfl, fun _ => rfl, rfl⟩
  have hin := (isPia_iff_range a).mp ha
  omega

/-- Settles O20: at each of the four addresses the bus hands the access to one operation of the PIA (R26); two of the four
writes are gated. -/
theorem piaRegistersThroughTheBus : Obligations.PiaRegistersThroughTheBus := by
  unfold Obligations.PiaRegistersThroughTheBus
  intro s v hidle
  rw [← Pia.writeKeyboardControl_eq, ← Pia.writeDisplayData_eq]
  exact ⟨memRead_pia hidle rfl, memWrite_pia hidle v rfl, memRead_pia hidle rfl, memWrite_pia hidle v rfl,
    memRead_pia hidle rfl, memWrite_pia hidle v rfl, memRead_pia hidle rfl, memWrite_pia hidle v rfl⟩

end

section
/-! The decoder and the encoder (R40, R41, R57, R122). What a layout makes of two operands and which bytes it asks for are
written once; the matrix is walked once, row by row, to see that these are the bytes the encoder writes. Decoding an
encoding goes through the instructions, the other direction through the layouts. -/

namespace Sys2Proof

open Sys2Proof.Machine

/-! ### The layouts -/

/-- The instruction a layout makes of a byte operand and of a word operand; it uses one of them at most. -/
def Layout.instr (op d : Byte) (a : Addr) : Layout → Instr
  | .implied i => i
  | .byte k => k d
  | .word k => k a
  | .padded i => i
  | .undoc c => undocInstr c op

/-- The bytes after the opcode byte as the encoder writes them: a skipped byte is 0x00. -/
def Layout.operands (d : Byte) (a : Addr) : Layout → List Byte
  | .implied _ => []
  | .byte _ => [d]
  | .word _ => addrBytes a
  | .padded _ => [0x00#8]
  | .undoc c => List.replicate c.skipped 0x00#8

/-- Whether a layout has bytes that are skipped, so that the decoder leaves their values open. -/
def Layout.skips : Layout → Bool
  | .padded _ => true
  | .undoc c => c.skipped != 0
  | _ => false

/-- BRK, UNOP2 and UNOP3: the instructions with bytes that are never read. -/
def Instr.skips : Instr → Bool
  | .brk | .unop2 _ | .unop3 _ => true
  | _ => false

theorem Instr.skips_eq_false {i : Instr} (hundoc : ∀ op, i ≠ .unop2 op ∧ i ≠ .unop3 op) (hbrk : i ≠ .brk) :
    i.skips = false := by
  cases i
  case brk => contradiction
  case unop2 op => exact absurd rfl (hundoc op).1
  case unop3 op => exact absurd rfl (hundoc op).2
  all_goals rfl

/-! ### Every entry of the dispatch table agrees with the encoder -/

/-- The entries of a piece of the matrix that starts at the opcode byte `n` make well-formed instructions, whose encodings
are the opcode byte and the operands the entry asks for. -/
def EncodesFrom (n : Nat) (entries : List (Option Layout)) : Prop :=
  ∀ (d : Byte) (a : Addr),
    ((entries.zipIdx n).map fun e => e.1.map fun l =>
      let i := l.instr (BitVec.ofNat 8 e.2) d a
      (i.wellFormed, i.skips, encode i)) =
    (entries.zipIdx n).map fun e => e.1.map fun l => (true, l.skips, BitVec.ofNat 8 e.2 :: l.operands d a)

theorem EncodesFrom.append {n : Nat} {es fs : List (Option Layout)} (he : EncodesFrom n es)
    (hf : EncodesFrom (n + es.length) fs) : EncodesFrom n (es ++ fs) := fun d a => by
  rw [List.zipIdx_append, List.map_append, List.map_append, he d a, hf d a]

theorem opcodeMatrix_encodes : EncodesFrom 0 opcodeMatrix := by
  simp only [opcodeMatrix, List.append_assoc]
  repeat' apply EncodesFrom.append
  all_goals exact fun _ _ => rfl

theorem undocInstr_wellFormed (c : UndocClass) (op : Byte) : (undocInstr c op).wellFormed = isUndocOf c op := by
  cases c <;> rfl

theorem layout_encodes (op d : Byte) (a : Addr) :
    ((layout op).instr op d a).wellFormed = true ∧ ((layout op).instr op d a).skips = (layout op).skips ∧
    encode ((layout op).instr op d a) = op :: (layout op).operands d a := by
  unfold layout
  cases hdoc : documented op with
  | some l =>
    have hentry : opcodeMatrix[op.toNat]? = some (some l) := by
      simpa [documented, List.getD_eq_getElem?_getD, Option.getD_eq_iff] using hdoc
    simpa [hentry] using congrArg (·[op.toNat]?) (opcodeMatrix_encodes d a)
  | none =>
    have hclass : isUndocOf (undocClass op) op = true := by simp [isUndocOf, hdoc]
    refine ⟨(undocInstr_wellFormed _ op).trans hclass, ?_⟩
    cases undocClass op <;> exact ⟨rfl, rfl⟩

/-! ### From the bytes to the instruction -/

theorem dropBytes_eq_some {rest : List Byte} : ∀ {n : Nat} {bs : List Byte},
    dropBytes n bs = some rest ↔ ∃ skipped, skipped.length = n ∧ bs = skipped ++ rest
  | 0, bs => by simp [dropBytes]
  | n + 1, [] => by simp [dropBytes]
  | n + 1, b :: bs => by
    rw [dropBytes, dropBytes_eq_some]
    constructor
    · rintro ⟨skipped, hlength, rfl⟩
      exact ⟨b :: skipped, congrArg (· + 1) hlength, rfl⟩
    · rintro ⟨_ | ⟨_, skipped⟩, hlength, hbs⟩
      · cases hlength
      · obtain ⟨rfl, rfl⟩ := List.cons.inj hbs
        exact ⟨skipped, Nat.succ.inj hlength, rfl⟩

theorem decodes_implied {op : Byte} {i : Instr} (h : layout op = .implied i) : Decodes [op] i := by
  intro rest
  simp only [List.singleton_append, decode, h]

theorem decodes_byte {op : Byte} {k : Byte → Instr} (h : layout op = .byte k) (d : Byte) : Decodes [op, d] (k d) := by
  intro rest
  simp only [List.cons_append, decode, h]
  rfl

theorem decodes_word {op : Byte} {k : Addr → Instr} (h : layout op = .word k) (lo hi : Byte) :
    Decodes [op, lo, hi] (k (addrOf hi lo)) := by
  intro rest
  simp only [List.cons_append, decode, h]
  rfl

theorem decodes_addr {op : Byte} {k : Addr → Instr} (h : layout op = .word k) (a : Addr) :
    Decodes (op :: addrBytes a) (k a) := by
  simpa [addrBytes] using decodes_word h (lo8 a) (hi8 a)

theorem decodes_padded {op : Byte} {i : Instr} (h : layout op = .padded i) (skipped : Byte) : Decodes [op, skipped] i := by
  intro rest
  simp only [List.cons_append, decode, h]
  rfl

theorem decodes_undoc {op : Byte} {c : UndocClass} (h : layout op = .undoc c) {skipped : List Byte}
    (hskipped : skipped.length = c.skipped) : Decodes (op :: skipped) (undocInstr c op) := by
  intro rest
  have hdrop : dropBytes c.skipped (skipped ++ rest) = some rest := dropBytes_eq_some.mpr ⟨skipped, hskipped, rfl⟩
  simp only [List.cons_append, decode, h, hdrop]

theorem layout_eq_undoc {c : UndocClass} {op : Byte} (h : isUndocOf c op = true) : layout op = .undoc c := by
  simp only [isUndocOf, Bool.and_eq_true, Option.isNone_iff_eq_none, decide_eq_true_eq] at h
  obtain ⟨hempty, hclass⟩ := h
  simp only [layout, hempty, hclass]

/-- What an accepted list of bytes is: an opcode byte, the operands its layout asks for (any bytes where they are skipped),
and the rest. -/
theorem decode_eq_ok {bs rest : List Byte} {i : Instr} (h : decode bs = .ok i rest) :
    ∃ (op d : Byte) (a : Addr) (operands : List Byte),
      bs = op :: (operands ++ rest) ∧ i = (layout op).instr op d a ∧
      operands.length = ((layout op).operands d a).length ∧
      ((layout op).skips = false → operands = (layout op).operands d a) := by
  cases bs with
  | nil => cases h
  | cons op bs =>
    refine ⟨op, ?_⟩
    cases hl : layout op with
    | implied i =>
      simp only [decode, hl] at h
      cases h
      exact ⟨0, 0, [], rfl, rfl, rfl, fun _ => rfl⟩
    | byte k =>
      obtain _ | ⟨d, bs⟩ := bs <;> simp only [decode, hl] at h <;> cases h
      exact ⟨d, 0, [d], rfl, rfl, rfl, fun _ => rfl⟩
    | word k =>
      obtain _ | ⟨lo, _ | ⟨hi, bs⟩⟩ := bs <;> simp only [decode, hl] at h <;> cases h
      exact ⟨0, addrOf hi lo, [lo, hi], rfl, rfl, rfl, fun _ => by simp [Layout.operands, addrBytes]⟩
    | padded i =>
      obtain _ | ⟨skipped, bs⟩ := bs <;> simp only [decode, hl] at h <;> cases h
      exact ⟨0, 0, [skipped], rfl, rfl, rfl, nofun⟩
    | undoc c =>
      cases hdrop : dropBytes c.skipped bs <;> simp only [decode, hl, hdrop] at h <;> cases h
      obtain ⟨skipped, hlength, rfl⟩ := dropBytes_eq_some.mp hdrop
      refine ⟨0, 0, skipped, rfl, rfl, by simp [Layout.operands, hlength], fun hnone => ?_⟩
      have hzero : c.skipped = 0 := by simpa [Layout.skips] using hnone
      simpa [Layout.operands, hzero] using hlength

/-! ### From the instruction to its bytes -/

/-- Each instruction's encoding is the opcode byte of its form, with the operands the form's layout asks for. -/
theorem decodes_encode {i : Instr} (hwf : i.wellFormed = true) : Decodes (encode i) i := by
  cases i
  case lda m | adc m | sbc m | cmp m | and m | ora m | eor m =>
    cases m
    case imm | zp | zpx | indx | indy => apply decodes_byte; rfl
    case abs | absx | absy => apply decodes_addr; rfl
  case ldx m =>
    cases m
    case imm | zp | zpy => apply decodes_byte; rfl
    case abs | absy => apply decodes_addr; rfl
  case ldy m =>
    cases m
    case imm | zp | zpx => apply decodes_byte; rfl
    case abs | absx => apply decodes_addr; rfl
  case sta m =>
    cases m
    case zp | zpx | indx | indyw => apply decodes_byte; rfl
    case abs | absxw | absyw => apply decodes_addr; rfl
  case stx m =>
    cases m
    case zp | zpy => apply decodes_byte; rfl
    case abs => apply decodes_addr; rfl
  case sty m =>
    cases m
    case zp | zpx => apply decodes_byte; rfl
    case abs => apply decodes_addr; rfl
  case cpx m | cpy m =>
    cases m
    case imm | zp => apply decodes_byte; rfl
    case abs => apply decodes_addr; rfl
  case asl m | lsr m | rol m | ror m =>
    cases m
    case acc => exact decodes_implied rfl
    case zp | zpx => apply decodes_byte; rfl
    case abs | absxw => apply decodes_addr; rfl
  case inc m | dec m =>
    cases m
    case zp | zpx => apply decodes_byte; rfl
    case abs | absxw => apply decodes_addr; rfl
  case bit m =>
    cases m
    case zp => apply decodes_byte; rfl
    case abs => apply decodes_addr; rfl
  case jmp t => cases t <;> (apply decodes_addr; rfl)
  case jsr => apply decodes_addr; rfl
  case bpl | bmi | bvc | bvs | bcc | bcs | bne | beq => apply decodes_byte; rfl
  case brk => exact decodes_padded rfl _
  case unop1 | unop2 | unop3 | uhang => exact decodes_undoc (layout_eq_undoc hwf) rfl
  all_goals exact decodes_implied rfl

end Sys2Proof
end

section

open Sys2Proof Sys2Proof.Machine

/-- Settles O1: one case per form of an instruction; each encoding is its opcode byte and the operands of its layout. -/
theorem decodeOfEncodeIsTheInstruction : Obligations.DecodeOfEncodeIsTheInstruction := by
  unfold Obligations.DecodeOfEncodeIsTheInstruction
  exact fun _ => decodes_encode

/-- Settles O2: accepted bytes are the operands of a layout, and every layout's operands are those of the encoder. -/
theorem decodedBytesAreTheEncoding : Obligations.DecodedBytesAreTheEncoding := by
  unfold Obligations.DecodedBytesAreTheEncoding
  intro bs rest i h
  obtain ⟨op, d, a, operands, rfl, rfl, hlength, hoperands⟩ := decode_eq_ok h
  obtain ⟨hwf, hskips, hencode⟩ := layout_encodes op d a
  refine ⟨hwf, ?_, ?_, ?_, fun hundoc hbrk => ?_⟩
  · simp [Instr.length, hencode, ← hlength]
  · simp [Instr.length, hencode, ← hlength]
    omega
  · simp [hencode]
  · rw [hencode, hoperands (hskips.symm.trans (Instr.skips_eq_false hundoc hbrk)), List.cons_append]

/-- Settles O3: no layout asks for more than two bytes. -/
theorem everyOpcodeByteDecodes : Obligations.EveryOpcodeByteDecodes := by
  unfold Obligations.EveryOpcodeByteDecodes
  refine ⟨fun op b c => ?_, rfl⟩
  cases hl : layout op with
  | implied => exact ⟨_, _, decodes_implied hl [b, c]⟩
  | byte => exact ⟨_, _, decodes_byte hl b [c]⟩
  | word => exact ⟨_, _, decodes_word hl b c []⟩
  | padded => exact ⟨_, _, decodes_padded hl b [c]⟩
  | undoc cl =>
    cases cl
    case unop1 | uhang => exact ⟨_, _, decodes_undoc hl (skipped := []) rfl [b, c]⟩
    case unop2 => exact ⟨_, _, decodes_undoc hl (skipped := [b]) rfl [c]⟩
    case unop3 => exact ⟨_, _, decodes_undoc hl (skipped := [b, c]) rfl []⟩

/-- Settles O4: each word is looked up in the matrix of R41, or in the default class table of R122. -/
theorem specWordsDecode : Obligations.SpecWordsDecode := by
  unfold Obligations.SpecWordsDecode
  decide

end

section
/-! The step (R42, R43, R57, R132): every instruction answers a next state, and the fetch phase is a row of `Fetch8`. -/

namespace Sys2Proof.Machine

/-! ### No instruction faults or is refused -/

theorem continues_next (t : State) : Continues (.next t) := ⟨t, rfl⟩

theorem continues_shiftOn (f : Byte → Bool → ShiftResult) (p : Place) (s : State) : Continues (shiftOn f p s) := by
  cases p <;> exact continues_next _

theorem continues_branchIf (cond : Bool) (d : Byte) (s : State) : Continues (branchIf cond d s) := by
  rw [branchIf_next]
  exact continues_next _

/-- Shifts and branches have two ways to go on; every other instruction is one `next`. -/
theorem continues_exec (i : Instr) (s : State) : Continues (exec i s) := by
  cases i
  case asl | lsr | rol | ror => exact continues_shiftOn _ _ s
  case bpl | bmi | bvc | bvs | bcc | bcs | bne | beq => exact continues_branchIf _ _ s
  all_goals exact continues_next _

theorem continues_charge {n : Nat} {r : Result} (h : Continues r) : Continues (charge n r) := by
  obtain ⟨t, rfl⟩ := h
  exact continues_next _

/-! ### The fetch phase -/

theorem fetch8_pc (s : State) : (fetch8 s).2.pc = s.pc + 1#16 := by
  rw [fetch8_eq_memRead, State.withPc_pc]

theorem fetchInstr_implied {s : State} {i : Instr} (h : layout (fetch8 s).1 = .implied i) :
    fetchInstr s = (i, (fetch8 s).2) := by
  simp only [fetchInstr, h]

theorem fetchInstr_byte {s : State} {k : Byte → Instr} (h : layout (fetch8 s).1 = .byte k) :
    fetchInstr s = (k (fetch8 (fetch8 s).2).1, (fetch8 (fetch8 s).2).2) := by
  simp only [fetchInstr, h]

theorem fetchInstr_word {s : State} {k : Addr → Instr} (h : layout (fetch8 s).1 = .word k) :
    fetchInstr s = (k (addrOf (fetch8 (fetch8 (fetch8 s).2).2).1 (fetch8 (fetch8 s).2).1),
      (fetch8 (fetch8 (fetch8 s).2).2).2) := by
  simp only [fetchInstr, h]

end Sys2Proof.Machine
end

section

open Sys2Proof Sys2Proof.Machine

/-- Settles O8: each instruction answers a next state, and a step charges the instruction it fetched. -/
theorem everyStepGoesOn : Obligations.EveryStepGoesOn := by
  unfold Obligations.EveryStepGoesOn
  exact ⟨fun _ => continues_charge (continues_exec _ _), continues_exec⟩

/-- Settles O7: a fetch is a byte read at PC, and PC moves on. -/
theorem fetchReadsThroughTheBus : Obligations.FetchReadsThroughTheBus := by
  unfold Obligations.FetchReadsThroughTheBus
  intro s hidle
  rw [fetch8_idle hidle]
  exact ⟨rfl, BitVec.toNat_add s.pc 1#16, rfl⟩

/-- Settles O60: a fetch reads at PC whatever the host does, so the three addresses follow from PC alone. -/
theorem fetchPhaseUsesFetch8 : Obligations.FetchPhaseUsesFetch8 := by
  unfold Obligations.FetchPhaseUsesFetch8
  intro s
  dsimp only
  refine ⟨?_, ?_, ?_, ?_, fun i => fetchInstr_implied, fun k => fetchInstr_byte,
    fun k h => congrArg Prod.snd (fetchInstr_word h)⟩
  · rw [fetch8_pc]
    exact fetch8_eq_memRead s
  all_goals simp only [fetch8_pc, BitVec.toNat_add, BitVec.toNat_ofNat, Nat.mod_add_mod]

end

section
/-! The resolver (R47 to R51, R53, R54) and the common rule of the branches (R55, R99) in the integers of the rules. -/

namespace Sys2Proof.Machine

theorem toNat_zeroPage (z : Byte) : (zeroPage z).toNat = z.toNat := by
  simp [zeroPage, toNat_addrOf]

theorem zeroPage_eq_ofNat (z : Byte) : zeroPage z = BitVec.ofNat 16 z.toNat := by
  rw [← toNat_zeroPage, BitVec.ofNat_toNat, BitVec.setWidth_eq]

/-- An indexed address wraps modulo 65536 (R50, R51, R54). -/
theorem toNat_indexed (base : Addr) (i : Byte) : (base + zext16 i).toNat = (base.toNat + i.toNat) % 65536 := by
  have hi := i.isLt
  simp only [zext16, BitVec.toNat_add, BitVec.toNat_setWidth]
  omega

theorem hi8_eq_iff (v w : Addr) : hi8 v = hi8 w ↔ v.toNat / 256 = w.toNat / 256 := by
  rw [← BitVec.toNat_inj, toNat_hi8, toNat_hi8]

/-- The page-crossing charge, in integers (R50, R54). -/
theorem pagePenalty_indexed (base : Addr) (i : Byte) : pagePenalty base (base + zext16 i) =
    if (base.toNat + i.toNat) % 65536 / 256 = base.toNat / 256 then 0 else 1 := by
  simp only [pagePenalty, ne_eq, hi8_eq_iff, toNat_indexed, ite_not]

/-- The word at a page-zero pointer, whose second byte wraps in page zero (R53). -/
theorem toNat_zpWord (s : State) (z : Byte) (n : Nat) (hz : z.toNat = n % 256) : (s.zpWord z).toNat =
    (s.mem.read (BitVec.ofNat 16 (n % 256))).toNat + 256 * (s.mem.read (BitVec.ofNat 16 ((n + 1) % 256))).toNat := by
  have hnext : (z + 1#8).toNat = (n + 1) % 256 := by
    rw [BitVec.toNat_add, hz]
    simp
  rw [State.zpWord, toNat_addrOf, zeroPage_eq_ofNat, zeroPage_eq_ofNat, hz, hnext]
  omega

/-- With an idle host, what is to be known of a mode is its address and its charge. -/
theorem resolve_yields {s : State} (hidle : s.hostIdle) {m : AddrMode} {a extra : Nat}
    (haddress : (effectiveAddress m s).toNat = a) (hcharge : crossing m s = extra) :
    (resolve m s).1.toNat = a ∧ (resolve m s).2 = s.withCycles (s.cycles + extra) := by
  subst haddress hcharge
  rw [resolve_idle hidle]
  exact ⟨rfl, rfl⟩

/-- Where a taken branch goes: the displacement is signed and the sum wraps (R55). -/
theorem toNat_branchTarget (d : Byte) (s : State) :
    ((branchTarget d s).toNat : Int) = ((s.pc.toNat : Int) + d.toInt) % 65536 := by
  have hsext : (sext16 d).toInt = d.toInt := BitVec.toInt_signExtend_of_le (by decide)
  rw [← hsext, branchTarget, BitVec.toNat_add, BitVec.toInt_eq_toNat_cond]
  split_ifs <;> omega

/-- A branch obeys the common rule, whatever its condition is (R99). -/
theorem branchIf_branched (cond : Bool) (d : Byte) (s : State) :
    ∃ t, branchIf cond d s = .next t ∧ Branched cond d s t := by
  refine ⟨_, branchIf_next cond d s, ?_⟩
  cases cond
  · exact ⟨rfl, rfl, rfl, rfl, rfl, rfl, fun _ _ => rfl, fun _ => rfl, rfl, rfl, rfl, rfl, rfl, rfl, rfl, rfl⟩
  · have hcharge : branchPenalty s.pc (branchTarget d s) =
        if (branchTarget d s).toNat / 256 = s.pc.toNat / 256 then 1 else 2 := by
      simp only [branchPenalty, ne_eq, hi8_eq_iff, ite_not]
    exact ⟨toNat_branchTarget d s, congrArg (s.cycles + ·) hcharge, rfl, rfl, rfl, rfl, fun _ _ => rfl, fun _ => rfl, rfl,
      rfl, rfl, rfl, rfl, rfl, rfl, rfl⟩

end Sys2Proof.Machine
end

section

open Sys2Proof Sys2Proof.Machine

/-- Settles O30: with an idle host the resolver is `effectiveAddress` and `crossing`; what is left is their integers. -/
theorem resolverYieldsTheAddress : Obligations.ResolverYieldsTheAddress := by
  unfold Obligations.ResolverYieldsTheAddress
  intro s hidle word yields penalty
  have hyields {m : AddrMode} {a extra : Nat} : (effectiveAddress m s).toNat = a → crossing m s = extra →
      yields m a extra := resolve_yields hidle
  have hsum (d i : Byte) : (zeroPage (d + i)).toNat = (d.toNat + i.toNat) % 256 := by
    rw [toNat_zeroPage, BitVec.toNat_add]
  have hword (d : Byte) : (s.zpWord d).toNat = word d.toNat :=
    toNat_zpWord s d d.toNat (Nat.mod_eq_of_lt d.isLt).symm
  have hindexed (d : Byte) : (s.zpWord d + zext16 s.y).toNat = (word d.toNat + s.y.toNat) % 65536 := by
    rw [toNat_indexed, hword]
  have hcross (d : Byte) : crossing (.indy d) s = penalty (word d.toNat) s.y.toNat := by
    rw [← hword]
    exact pagePenalty_indexed _ _
  exact ⟨fun d => ⟨hyields (toNat_zeroPage d) rfl, hyields (hsum d s.x) rfl, hyields (hsum d s.y) rfl,
      hyields (toNat_zpWord s (d + s.x) _ (BitVec.toNat_add d s.x)) rfl, hyields (hindexed d) (hcross d),
      hyields (hindexed d) rfl⟩,
    fun a => ⟨hyields rfl rfl, hyields (toNat_indexed a s.x) (pagePenalty_indexed a s.x),
      hyields (toNat_indexed a s.y) (pagePenalty_indexed a s.y), hyields (toNat_indexed a s.x) rfl,
      hyields (toNat_indexed a s.y) rfl⟩⟩

/-- Settles O52: each of the eight is the common rule at its own condition. -/
theorem branchesTestOneFlag : Obligations.BranchesTestOneFlag := by
  unfold Obligations.BranchesTestOneFlag
  refine ⟨fun d => ?_, fun s d => ?_⟩
  · refine ⟨?_, ?_, ?_, ?_, ?_, ?_, ?_, ?_⟩ <;> exact decodes_byte rfl d
  · have hrule (cond : Bool) := branchIf_branched cond d s
    exact ⟨hrule _, hrule _, hrule _, hrule _, hrule _, hrule _, hrule _, hrule _⟩

end

section
/-! Loads and stores (R60 to R65), and what every instruction that reads one operand byte has in common (R43, R46). -/

namespace Sys2Proof.Machine

/-! ### The opcode bytes of the operand forms -/

/-- `decodes_byte`, where the instruction is given and its layout is looked up. -/
theorem decodes_byteForm {op d : Byte} {i : Instr} {k : Byte → Instr} (h : layout op = .byte k) (hinstr : k d = i) :
    Decodes [op, d] i := hinstr ▸ decodes_byte h d

/-- `decodes_word`, where the instruction is given and its layout is looked up. -/
theorem decodes_wordForm {op lo hi : Byte} {i : Instr} {k : Addr → Instr} (h : layout op = .word k)
    (hinstr : k (addrOf hi lo) = i) : Decodes [op, lo, hi] i := hinstr ▸ decodes_word h lo hi

theorem readForms_of_layout {k : ReadOp → Instr} {imm zp zpx abs absx absy indx indy : Byte}
    (himm : layout imm = .byte fun d => k (.imm d)) (hzp : layout zp = .byte fun d => k (.zp d))
    (hzpx : layout zpx = .byte fun d => k (.zpx d)) (habs : layout abs = .word fun a => k (.abs a))
    (habsx : layout absx = .word fun a => k (.absx a)) (habsy : layout absy = .word fun a => k (.absy a))
    (hindx : layout indx = .byte fun d => k (.indx d)) (hindy : layout indy = .byte fun d => k (.indy d)) :
    ReadForms k imm zp zpx abs absx absy indx indy := fun b c =>
  ⟨decodes_byte himm b, decodes_byte hzp b, decodes_byte hzpx b, decodes_word habs b c, decodes_word habsx b c,
    decodes_word habsy b c, decodes_byte hindx b, decodes_byte hindy b⟩

/-! ### The state an operand read leaves -/

/-- The state in which an instruction works on its operand byte: only the PIA and the cycle count know of the read. -/
def State.afterSource (r : Source) (s : State) : State := (s.withPia (s.sourcePia r)).withCycles (s.sourceCycles r)

/-- An instruction that works on its operand with registers and `P` alone leaves the rest as the operand read does. -/
theorem onSource_readKept {s : State} (hidle : s.hostIdle) (r : Source) {ks : List Nat} {f : Byte → State → State}
    (hflags : ∀ v u, FlagsKept ks u (f v u)) (hrest : ∀ v u, RestKept u (f v u)) :
    onSource r f s = .next (f (s.sourceByte r) (s.afterSource r)) ∧
      ReadKept ks r s (f (s.sourceByte r) (s.afterSource r)) := by
  obtain ⟨hmem, hpia, hcycles, hinputs⟩ := hrest (s.sourceByte r) (s.afterSource r)
  exact ⟨onSource_idle hidle r f, hflags _ _, hmem, hpia, hcycles, hinputs⟩

/-! ### Loads -/

section Load

variable (q : ByteReg) (v : Byte) (u : State)

theorem load_reg : ((u.withReg q v).setNZ v).reg q = v := by
  cases q <;> rfl

theorem load_pc : ((u.withReg q v).setNZ v).pc = u.pc := by
  cases q <;> rfl

theorem load_restKept : RestKept u ((u.withReg q v).setNZ v) := by
  cases q <;> exact ⟨fun _ => rfl, rfl, rfl, rfl, rfl, rfl, rfl, rfl, rfl, rfl⟩

end Load

/-- The common rule of LDA, LDX and LDY, for the register `q` (R60 to R62). -/
theorem onSource_load {s : State} (hidle : s.hostIdle) (q : ByteReg) (r : Source) :
    ∃ t, onSource r (fun v u => (u.withReg q v).setNZ v) s = .next t ∧ t.reg q = s.sourceByte r ∧ NZOf (t.reg q) t ∧
      (∀ q', q' ≠ q → t.reg q' = s.reg q') ∧ t.pc = s.pc ∧ ReadKept [bitZ, bitN] r s t := by
  have hchanges (v : Byte) (u : State) := withReg_setNZ_changesAtMost u q v v
  obtain ⟨hnext, hkept⟩ := onSource_readKept hidle r (fun v u => (hchanges v u).flags) (load_restKept q)
  refine ⟨_, hnext, load_reg q _ _, ?_, fun q' hne => ?_, load_pc q _ _, hkept⟩
  · rw [load_reg]
    exact setNZ_NZOf _ _
  · rw [(hchanges _ _).regs q' (mt List.mem_singleton.mp hne)]
    cases q' <;> rfl

/-! ### Stores -/

/-- The write variants of the indexed modes charge their cycle in the base count (R51, R54). -/
theorem crossing_staOp (m : StaOp) (s : State) : crossing m.mode s = 0 := by cases m <;> rfl
theorem crossing_stxOp (m : StxOp) (s : State) : crossing m.mode s = 0 := by cases m <;> rfl
theorem crossing_styOp (m : StyOp) (s : State) : crossing m.mode s = 0 := by cases m <;> rfl

/-- The common rule of STA, STX and STY (R63 to R65): `storeAt_kept`, with `P` read flag by flag. -/
theorem storeAt_stored {s : State} (hidle : s.hostIdle) {m : AddrMode} (hcrossing : crossing m s = 0)
    (v : State → Byte) :
    ∃ t, storeAt m v s = .next t ∧ Stored (resolve m s).1 (v s) s.pia s t ∧
      RegsKept s t ∧ FlagsKept [] s t ∧ t.cycles = s.cycles ∧ InputsKept s t := by
  obtain ⟨t, hnext, hstored, hcpu, hinputs⟩ := storeAt_kept hidle m hcrossing v
  have hflags := hcpu.changesAtMost.flags
  obtain ⟨ha, hx, hy, hsp, hpc, -, hcycles⟩ := hcpu
  exact ⟨t, hnext, hstored, ⟨ha, hx, hy, hsp, hpc⟩, hflags, hcycles, hinputs⟩

end Sys2Proof.Machine
end

section

open Sys2Proof Sys2Proof.Machine

/-- Settles O32: each of the three is the common rule of the loads at its own register. -/
theorem loadsCopyTheOperand : Obligations.LoadsCopyTheOperand := by
  unfold Obligations.LoadsCopyTheOperand
  refine ⟨readForms_of_layout rfl rfl rfl rfl rfl rfl rfl rfl,
    fun _ _ => ⟨decodes_byteForm rfl rfl, decodes_byteForm rfl rfl, decodes_byteForm rfl rfl,
      decodes_wordForm rfl rfl, decodes_wordForm rfl rfl⟩,
    fun _ _ => ⟨decodes_byteForm rfl rfl, decodes_byteForm rfl rfl, decodes_byteForm rfl rfl,
      decodes_wordForm rfl rfl, decodes_wordForm rfl rfl⟩,
    fun s hidle => ⟨fun m => ?_, fun m => ?_, fun m => ?_⟩⟩
  · obtain ⟨t, hnext, hreg, hnz, hregs, hpc, hkept⟩ := onSource_load hidle .a m.source
    exact ⟨t, hnext, hreg, hnz, hregs .x nofun, hregs .y nofun, hregs .sp nofun, hpc, hkept⟩
  · obtain ⟨t, hnext, hreg, hnz, hregs, hpc, hkept⟩ := onSource_load hidle .x m.source
    exact ⟨t, hnext, hreg, hnz, hregs .a nofun, hregs .y nofun, hregs .sp nofun, hpc, hkept⟩
  · obtain ⟨t, hnext, hreg, hnz, hregs, hpc, hkept⟩ := onSource_load hidle .y m.source
    exact ⟨t, hnext, hreg, hnz, hregs .a nofun, hregs .x nofun, hregs .sp nofun, hpc, hkept⟩

/-- Settles O33: each of the three is the common rule of the stores, at a mode without a page-crossing charge. -/
theorem storesWriteTheRegister : Obligations.StoresWriteTheRegister := by
  unfold Obligations.StoresWriteTheRegister
  refine ⟨fun _ _ => ?_, fun s hidle => ?_⟩
  · exact ⟨decodes_byteForm rfl rfl, decodes_byteForm rfl rfl, decodes_wordForm rfl rfl,
      decodes_wordForm rfl rfl, decodes_wordForm rfl rfl, decodes_byteForm rfl rfl, decodes_byteForm rfl rfl,
      decodes_byteForm rfl rfl, decodes_byteForm rfl rfl, decodes_wordForm rfl rfl,
      decodes_byteForm rfl rfl, decodes_byteForm rfl rfl, decodes_wordForm rfl rfl⟩
  · exact ⟨fun m => storeAt_stored hidle (crossing_staOp m s) State.a,
      fun m => storeAt_stored hidle (crossing_stxOp m s) State.x,
      fun m => storeAt_stored hidle (crossing_styOp m s) State.y⟩

end

section
/-! Arithmetic and compare (R66 to R74): the results of ADC, SBC and the compares in the integers of the rules, and the
state their instructions leave. -/

namespace Sys2Proof.Machine

/-! ### Bytes -/

theorem getLsbD_seven (v : Byte) : v.getLsbD 7 = decide (128 ≤ v.toNat) := BitVec.msb_eq_decide v

/-- Bit 7 of `v ^ w` says that the signs differ. -/
theorem getLsbD_xor_seven (v w : Byte) : (v ^^^ w).getLsbD 7 = decide (¬(128 ≤ v.toNat ↔ 128 ≤ w.toNat)) := by
  rw [BitVec.getLsbD_xor, getLsbD_seven, getLsbD_seven]
  by_cases hv : 128 ≤ v.toNat <;> by_cases hw : 128 ≤ w.toNat <;> simp [hv, hw]

theorem byte_beq_zero (v : Byte) : (v == 0x00#8) = decide (v.toNat = 0) := by
  rw [Bool.eq_iff_iff, beq_iff_eq, decide_eq_true_iff, ← BitVec.toNat_inj, BitVec.toNat_ofNat]

theorem toInt_byte (v : Byte) : v.toInt = if 128 ≤ v.toNat then (v.toNat : Int) - 256 else v.toNat := by
  rw [BitVec.toInt_eq_toNat_cond]
  split_ifs <;> omega

/-- The one's complement of a byte (R70). -/
theorem toNat_complement (v : Byte) : (v ^^^ 0xFF#8).toNat = 255 - v.toNat := by
  have hnot : v ^^^ 0xFF#8 = ~~~v := BitVec.xor_allOnes
  rw [hnot, BitVec.toNat_not]

theorem lowDigit_eq (v : Byte) : lowDigit v = v.toNat % 16 := Nat.and_two_pow_sub_one_eq_mod v.toNat 4

theorem highPart_eq : ∀ v : Byte, highPart v = v.toNat / 16 * 16 := by decide

/-! ### The results of ADC and SBC -/

section Results

variable (a m : Byte) (c : Bool)

theorem adcBinary_r : (adcBinary a m c).r.toNat = (a.toNat + m.toNat + c.toNat) % 256 := BitVec.toNat_ofNat _ _

theorem adcBinary_z : (adcBinary a m c).z = decide ((a.toNat + m.toNat + c.toNat) % 256 = 0) :=
  (byte_beq_zero _).trans (by rw [BitVec.toNat_ofNat])

theorem adcBinary_n : (adcBinary a m c).n = decide (128 ≤ (a.toNat + m.toNat + c.toNat) % 256) :=
  (getLsbD_seven _).trans (by rw [BitVec.toNat_ofNat])

/-- Two operands of one sign and a result of the other: the signed sum does not fit (R67). -/
theorem adcBinary_v : (adcBinary a m c).v =
    decide (a.toInt + m.toInt + c.toNat < -128 ∨ 127 < a.toInt + m.toInt + c.toNat) := by
  have hc := c.toNat_le
  have ha := a.isLt
  have hm := m.isLt
  simp only [adcBinary, BitVec.getLsbD_and, getLsbD_xor_seven, BitVec.toNat_ofNat, ← Bool.decide_and, toInt_byte]
  rw [decide_eq_decide]
  split_ifs <;> omega

/-- R70: the binary difference is the sum with the one's complement. -/
theorem sbcBinary_eq_adcBinary : sbcBinary a m c = adcBinary a (m ^^^ 0xFF#8) c := by
  have hc := c.toNat_le
  have hm := m.isLt
  have hr : BitVec.ofInt 8 ((a.toNat : Int) - m.toNat - (1 - c.toNat)) =
      BitVec.ofNat 8 (a.toNat + (m ^^^ 0xFF#8).toNat + c.toNat) := by
    rw [← BitVec.toNat_inj, BitVec.toNat_ofInt, BitVec.toNat_ofNat, toNat_complement]
    omega
  simp only [sbcBinary, adcBinary, hr, AluResult.mk.injEq, true_and]
  constructor
  · simp only [BitVec.getLsbD_and, getLsbD_xor_seven, toNat_complement, ← Bool.decide_and, decide_eq_decide]
    omega
  · rw [decide_eq_decide, toNat_complement]
    omega

theorem sbcBinary_r : ((sbcBinary a m c).r.toNat : Int) = ((a.toNat : Int) - m.toNat - (1 - c.toNat)) % 256 := by
  have hm := m.isLt
  rw [sbcBinary_eq_adcBinary, adcBinary_r, toNat_complement]
  omega

theorem sbcBinary_z : (sbcBinary a m c).z = decide (((a.toNat : Int) - m.toNat - (1 - c.toNat)) % 256 = 0) := by
  have hm := m.isLt
  rw [sbcBinary_eq_adcBinary, adcBinary_z, toNat_complement, decide_eq_decide]
  omega

theorem sbcBinary_n : (sbcBinary a m c).n = decide (128 ≤ ((a.toNat : Int) - m.toNat - (1 - c.toNat)) % 256) := by
  have hm := m.isLt
  rw [sbcBinary_eq_adcBinary, adcBinary_n, toNat_complement, decide_eq_decide]
  omega

/-- The signed value of the complement is `-1 - m`, so the signed sum is the signed difference (R70). -/
theorem sbcBinary_v : (sbcBinary a m c).v =
    decide (a.toInt - m.toInt - (1 - c.toNat) < -128 ∨ 127 < a.toInt - m.toInt - (1 - c.toNat)) := by
  have hm := m.isLt
  have hcomplement : (m ^^^ 0xFF#8).toInt = -1 - m.toInt := by
    rw [toInt_byte, toInt_byte, toNat_complement]
    split_ifs <;> omega
  rw [sbcBinary_eq_adcBinary, adcBinary_v, hcomplement, decide_eq_decide]
  omega

/-! In decimal mode `half` is the sum, or the difference, whose high digit is not yet corrected (R68, R71). -/

theorem adcHalf_eq :
    let low := a.toNat % 16 + m.toNat % 16 + c.toNat
    highPart a + highPart m + adcLowDigit a m c =
      a.toNat / 16 * 16 + m.toNat / 16 * 16 + if 10 ≤ low then (low + 6) % 16 + 16 else low := by
  simp only [adcLowDigit, lowDigit_eq, highPart_eq, ge_iff_le]

theorem adcDecimal_of_half {half : Nat} (hhalf : highPart a + highPart m + adcLowDigit a m c = half) :
    (adcDecimal a m c).r.toNat = (if 0xA0 ≤ half then half + 0x60 else half) % 256 ∧
    (adcDecimal a m c).c = decide (0x100 ≤ if 0xA0 ≤ half then half + 0x60 else half) ∧
    (adcDecimal a m c).z = decide ((a.toNat + m.toNat + c.toNat) % 256 = 0) ∧
    (adcDecimal a m c).n = half.testBit 7 ∧
    (adcDecimal a m c).v = decide (a.toNat / 128 = m.toNat / 128 ∧ a.toNat / 128 ≠ half / 128 % 2) := by
  have ha := a.isLt
  have hm := m.isLt
  subst hhalf
  refine ⟨BitVec.toNat_ofNat _ _, rfl, rfl, BitVec.getLsbD_ofNat _ _ _, ?_⟩
  simp only [adcDecimal, BitVec.getLsbD_and, getLsbD_xor_seven, BitVec.toNat_ofNat, ← Bool.decide_and, decide_eq_decide]
  omega

theorem sbcHalf_eq :
    let low : Int := (a.toNat % 16 : Nat) - (m.toNat % 16 : Nat) - (1 - c.toNat)
    (highPart a : Int) - highPart m + sbcLowDigit a m c =
      (a.toNat / 16 * 16 : Nat) - (m.toNat / 16 * 16 : Nat) + if low < 0 then (low - 6) % 16 - 16 else low := by
  simp only [sbcLowDigit, lowDigit_eq, highPart_eq]

theorem sbcDecimal_of_half {half : Int} (hhalf : (highPart a : Int) - highPart m + sbcLowDigit a m c = half) :
    ((sbcDecimal a m c).r.toNat : Int) = (if half < 0 then half - 0x60 else half) % 256 := by
  subst hhalf
  simp only [sbcDecimal, BitVec.toNat_ofInt]
  omega

theorem sbcDecimal_c : (sbcDecimal a m c).c = decide (0 ≤ (a.toNat : Int) - m.toNat - (1 - c.toNat)) := rfl

/-! On valid digits `half` is the decimal result, its tens above its ones; the last correction takes off a hundred. -/

theorem bcd_digits {v : Byte} {d1 d0 : Nat} (hd0 : d0 < 10) (hv : v.toNat = 16 * d1 + d0) :
    v.toNat / 16 = d1 ∧ v.toNat % 16 = d0 := by omega

theorem bcd_of_half_add {n : Nat} (hn : n < 200) :
    let half := 16 * (n / 10) + n % 10
    let full := if 0xA0 ≤ half then half + 0x60 else half
    full % 256 = 16 * (n % 100 / 10) + n % 10 ∧ (0x100 ≤ full ↔ 100 ≤ n) := by
  intro half full
  by_cases h : 100 ≤ n
  · have hwrap : n % 100 = n - 100 := by omega
    have hfull : full = half + 0x60 := if_pos (by omega)
    rw [hwrap, hfull]
    omega
  · have hwrap : n % 100 = n := by omega
    have hfull : full = half := if_neg (by omega)
    rw [hwrap, hfull]
    omega

theorem bcd_of_half_sub {n : Int} (hlow : -100 ≤ n) (hhigh : n < 100) :
    let half := 16 * (n / 10) + n % 10
    (if half < 0 then half - 0x60 else half) % 256 = 16 * (n % 100 / 10) + n % 10 := by
  intro half
  by_cases h : n < 0
  · have hwrap : n % 100 = n + 100 := by omega
    rw [hwrap, if_pos (by omega)]
    omega
  · have hwrap : n % 100 = n := by omega
    rw [hwrap, if_neg (by omega)]
    omega

section ValidDigits

variable {a m} {a1 a0 m1 m0 : Nat} (ha0 : a0 < 10) (hm0 : m0 < 10)
  (ha : a.toNat = 16 * a1 + a0) (hm : m.toNat = 16 * m1 + m0)

include ha0 hm0 ha hm

theorem adcHalf_bcd :
    let sum := (10 * a1 + a0) + (10 * m1 + m0) + c.toNat
    highPart a + highPart m + adcLowDigit a m c = 16 * (sum / 10) + sum % 10 := by
  intro sum
  have hc := c.toNat_le
  obtain ⟨ha1, ha0'⟩ := bcd_digits ha0 ha
  obtain ⟨hm1, hm0'⟩ := bcd_digits hm0 hm
  rw [adcHalf_eq, ha1, ha0', hm1, hm0']
  split_ifs <;> omega

theorem sbcHalf_bcd :
    let diff : Int := (10 * a1 + a0 : Nat) - (10 * m1 + m0 : Nat) - (1 - c.toNat)
    (highPart a : Int) - highPart m + sbcLowDigit a m c = 16 * (diff / 10) + diff % 10 := by
  intro diff
  have hc := c.toNat_le
  obtain ⟨ha1, ha0'⟩ := bcd_digits ha0 ha
  obtain ⟨hm1, hm0'⟩ := bcd_digits hm0 hm
  rw [sbcHalf_eq, ha1, ha0', hm1, hm0']
  split_ifs <;> omega

variable (ha1 : a1 < 10) (hm1 : m1 < 10)

include ha1 hm1

/-- R68, on valid BCD operands. -/
theorem adcDecimal_bcd :
    let sum := (10 * a1 + a0) + (10 * m1 + m0) + c.toNat
    (adcDecimal a m c).r.toNat = 16 * (sum % 100 / 10) + sum % 10 ∧ (adcDecimal a m c).c = decide (100 ≤ sum) := by
  intro sum
  have hc := c.toNat_le
  obtain ⟨hr, hcarry, -⟩ := adcDecimal_of_half a m c (adcHalf_bcd c ha0 hm0 ha hm)
  obtain ⟨hdigits, hhundred⟩ := bcd_of_half_add (n := sum) (by omega)
  exact ⟨hr.trans hdigits, hcarry.trans (decide_eq_decide.mpr hhundred)⟩

/-- R71, on valid BCD operands. -/
theorem sbcDecimal_bcd :
    let diff : Int := (10 * a1 + a0 : Nat) - (10 * m1 + m0 : Nat) - (1 - c.toNat)
    ((sbcDecimal a m c).r.toNat : Int) = 16 * (diff % 100 / 10) + diff % 10 ∧
      (sbcDecimal a m c).c = decide (0 ≤ diff) := by
  intro diff
  have hc := c.toNat_le
  have hr := sbcDecimal_of_half a m c (sbcHalf_bcd c ha0 hm0 ha hm)
  refine ⟨hr.trans (bcd_of_half_sub (n := diff) (by omega) (by omega)), ?_⟩
  rw [sbcDecimal_c, decide_eq_decide]
  omega

end ValidDigits

end Results

/-! ### The state ADC and SBC leave -/

section Operations

variable (o : AluResult) (v : Byte) (s : State)

@[simp] theorem State.putAlu_a : (s.putAlu o).a = o.r := rfl
@[simp] theorem State.putAlu_flagN : (s.putAlu o).flagN = o.n := State.setNVZC_flagN o _
@[simp] theorem State.putAlu_flagV : (s.putAlu o).flagV = o.v := State.setNVZC_flagV o _
@[simp] theorem State.putAlu_flagZ : (s.putAlu o).flagZ = o.z := State.setNVZC_flagZ o _
@[simp] theorem State.putAlu_flagC : (s.putAlu o).flagC = o.c := State.setNVZC_flagC o _

theorem putAlu_restKept : RestKept s (s.putAlu o) := ⟨fun _ => rfl, rfl, rfl, rfl, rfl, rfl, rfl, rfl, rfl, rfl⟩

end Operations

/-- The result of ADC in the mode that the value of `P.D` chooses (R66). -/
def adcResult : Bool → Byte → Byte → Bool → AluResult
  | false => adcBinary
  | true => adcDecimal

/-- The result of SBC in the mode that the value of `P.D` chooses (R69). -/
def sbcResult : Bool → Byte → Byte → Bool → AluResult
  | false => sbcBinary
  | true => sbcDecimal

theorem adcOn_eq (v : Byte) (s : State) : adcOn v s = s.putAlu (adcResult s.flagD s.a v s.flagC) := by
  unfold adcOn
  split_ifs with hd
  · rw [hd, adcResult]
  · rw [Bool.eq_false_of_not_eq_true hd, adcResult]

theorem sbcOn_eq (v : Byte) (s : State) : sbcOn v s = s.putAlu (sbcResult s.flagD s.a v s.flagC) := by
  unfold sbcOn
  split_ifs with hd
  · rw [hd, sbcResult]
  · rw [Bool.eq_false_of_not_eq_true hd, sbcResult]

/-- The common rule of ADC and SBC (R66, R69): A and the four flags are those of the result. -/
theorem onSource_putAlu {s : State} (hidle : s.hostIdle) (r : Source) {alu : Bool → Byte → Byte → Bool → AluResult}
    {f : Byte → State → State} (hf : ∀ v u, f v u = u.putAlu (alu u.flagD u.a v u.flagC)) :
    ∃ t, onSource r f s = .next t ∧ t.x = s.x ∧ t.y = s.y ∧ t.sp = s.sp ∧ t.pc = s.pc ∧
      ReadKept [bitN, bitV, bitZ, bitC] r s t ∧
      let o := alu s.flagD s.a (s.sourceByte r) s.flagC
      t.a = o.r ∧ t.flagN = o.n ∧ t.flagV = o.v ∧ t.flagZ = o.z ∧ t.flagC = o.c := by
  obtain ⟨hnext, hkept⟩ := onSource_readKept hidle r
    (fun v u => hf v u ▸ (putAlu_changesAtMost u _).flags) (fun v u => hf v u ▸ putAlu_restKept _ u)
  rw [hf] at hnext hkept
  exact ⟨_, hnext, rfl, rfl, rfl, rfl, hkept, State.putAlu_a _ _, State.putAlu_flagN _ _,
    State.putAlu_flagV _ _, State.putAlu_flagZ _ _, State.putAlu_flagC _ _⟩

/-! ### The compares -/

/-- What a compare of the register byte `r` with `v` says (R72 to R74). -/
def Compared (r v : Byte) (t : State) : Prop :=
  t.flagC = decide (v.toNat ≤ r.toNat) ∧ t.flagZ = decide (r = v) ∧
  t.flagN = decide (128 ≤ ((r.toNat : Int) - v.toNat) % 256)

theorem setNZC_compared (r v : Byte) (u : State) : Compared r v (u.setNZC (compare r v)) := by
  refine ⟨(State.setNZC_flagC _ u).trans ?_, (State.setNZC_flagZ _ u).trans ?_, (State.setNZC_flagN _ u).trans ?_⟩
  · simp only [compare, decide_eq_decide]
    omega
  · simp only [compare, decide_eq_decide, ← BitVec.toNat_inj]
    omega
  · simp only [compare, getLsbD_seven, BitVec.toNat_ofInt, decide_eq_decide]
    omega

theorem setNZC_restKept (o : AluResult) (u : State) : RestKept u (u.setNZC o) :=
  ⟨fun _ => rfl, rfl, rfl, rfl, rfl, rfl, rfl, rfl, rfl, rfl⟩

/-- The common rule of CMP, CPX and CPY, for the register `q` (R72 to R74). -/
theorem onSource_compare {s : State} (hidle : s.hostIdle) (q : ByteReg) (r : Source) :
    ∃ t, onSource r (fun v u => u.setNZC (compare (u.reg q) v)) s = .next t ∧
      Compared (s.reg q) (s.sourceByte r) t ∧ RegsKept s t ∧ ReadKept [bitN, bitZ, bitC] r s t := by
  obtain ⟨hnext, hkept⟩ := onSource_readKept hidle r (f := fun v u => u.setNZC (compare (u.reg q) v))
    (fun _ u => setNZC_flagsKept _ u) (fun _ u => setNZC_restKept _ u)
  have hreg : (s.afterSource r).reg q = s.reg q := by cases q <;> rfl
  refine ⟨_, hnext, ?_, ⟨rfl, rfl, rfl, rfl, rfl⟩, hkept⟩
  rw [hreg]
  exact setNZC_compared _ _ _

theorem indexCmpForms_of_layout {k : IndexCmpOp → Instr} {imm zp abs : Byte}
    (himm : layout imm = .byte fun d => k (.imm d)) (hzp : layout zp = .byte fun d => k (.zp d))
    (habs : layout abs = .word fun a => k (.abs a)) : IndexCmpForms k imm zp abs := fun b c =>
  ⟨decodes_byte himm b, decodes_byte hzp b, decodes_word habs b c⟩

end Sys2Proof.Machine
end

section

open Sys2Proof Sys2Proof.Machine

/-- Settles O34: the common rule of ADC and SBC, and the sum in each mode. -/
theorem adcAddsInBothModes : Obligations.AdcAddsInBothModes := by
  unfold Obligations.AdcAddsInBothModes
  refine ⟨readForms_of_layout rfl rfl rfl rfl rfl rfl rfl rfl, fun s m hidle => ?_⟩
  obtain ⟨t, hnext, hx, hy, hsp, hpc, hkept, ha, hn, hv, hz, hc⟩ := onSource_putAlu hidle m.source adcOn_eq
  refine ⟨t, hnext, hx, hy, hsp, hpc, hkept, ?_⟩
  intro v c sum signed
  rw [NZOf, ha, hn, hv, hz, hc]
  cases s.flagD
  case false => exact ⟨adcBinary_r _ _ _, rfl, ⟨adcBinary_z _ _ _, adcBinary_n _ _ _⟩, adcBinary_v _ _ _⟩
  case true => exact adcDecimal_of_half _ _ _ (adcHalf_eq _ _ _)

/-- Settles O35: the common rule of ADC and SBC, and the decimal sum of valid digits. -/
theorem decimalAdcIsDecimalAddition : Obligations.DecimalAdcIsDecimalAddition := by
  unfold Obligations.DecimalAdcIsDecimalAddition
  intro s m a1 a0 v1 v0 hidle hd ha1 ha0 hv1 hv0 ha hv
  obtain ⟨t, hnext, -, -, -, -, -, hr, -, -, -, hc⟩ := onSource_putAlu hidle m.source adcOn_eq
  refine ⟨t, hnext, ?_⟩
  rw [hr, hc, hd]
  exact adcDecimal_bcd s.flagC ha0 hv0 ha hv ha1 hv1

/-- Settles O36: the common rule of ADC and SBC; the flags are those of the binary difference whatever the mode. -/
theorem sbcSubtractsInBothModes : Obligations.SbcSubtractsInBothModes := by
  unfold Obligations.SbcSubtractsInBothModes
  refine ⟨readForms_of_layout rfl rfl rfl rfl rfl rfl rfl rfl, fun s m hidle => ?_⟩
  obtain ⟨t, hnext, hx, hy, hsp, hpc, hkept, ha, hn, hv, hz, hc⟩ := onSource_putAlu hidle m.source sbcOn_eq
  refine ⟨t, hnext, hx, hy, hsp, hpc, hkept, ?_⟩
  intro v b diff signed
  rw [ha, hn, hv, hz, hc]
  cases s.flagD
  case false => exact ⟨rfl, sbcBinary_v _ _ _, sbcBinary_z _ _ _, sbcBinary_n _ _ _, sbcBinary_r _ _ _⟩
  case true =>
    exact ⟨rfl, sbcBinary_v _ _ _, sbcBinary_z _ _ _, sbcBinary_n _ _ _, sbcDecimal_of_half _ _ _ (sbcHalf_eq _ _ _)⟩

/-- Settles O37: the common rule of ADC and SBC, and the decimal difference of valid digits. -/
theorem decimalSbcIsDecimalSubtraction : Obligations.DecimalSbcIsDecimalSubtraction := by
  unfold Obligations.DecimalSbcIsDecimalSubtraction
  intro s m a1 a0 v1 v0 hidle hd ha1 ha0 hv1 hv0 ha hv
  obtain ⟨t, hnext, -, -, -, -, -, hr, -, -, -, hc⟩ := onSource_putAlu hidle m.source sbcOn_eq
  refine ⟨t, hnext, ?_⟩
  rw [hr, hc, hd]
  exact sbcDecimal_bcd s.flagC ha0 hv0 ha hv ha1 hv1

/-- Settles O38: the two operations write the same result, and an immediate operand is read without an access. -/
theorem binarySbcIsAdcOfTheComplement : Obligations.BinarySbcIsAdcOfTheComplement := by
  unfold Obligations.BinarySbcIsAdcOfTheComplement
  intro s v hd
  have hon : sbcOn v s = adcOn (v ^^^ 0xFF#8) s := by
    rw [sbcOn_eq, adcOn_eq, hd, sbcResult, adcResult, sbcBinary_eq_adcBinary]
  exact congrArg _ hon

/-- Settles O39: each of the three is the common rule of the compares at its own register. -/
theorem comparesSetNZC : Obligations.ComparesSetNZC := by
  unfold Obligations.ComparesSetNZC
  exact ⟨readForms_of_layout rfl rfl rfl rfl rfl rfl rfl rfl, indexCmpForms_of_layout rfl rfl rfl,
    indexCmpForms_of_layout rfl rfl rfl, fun s hidle => ⟨fun m => onSource_compare hidle .a m.source,
      fun m => onSource_compare hidle .x m.source, fun m => onSource_compare hidle .y m.source⟩⟩

end

section
/-! Logic, shifts and rotates (R76 to R82): the results of the four shifts in the integers of the rules, and the state
that the logic operations and the shifts leave. -/

namespace Sys2Proof.Machine

/-! ### Logic -/

/-- The common rule of AND, ORA and EOR (R76 to R78): the result is loaded into A. -/
theorem onSource_logic {s : State} (hidle : s.hostIdle) (r : Source) (f : Byte → Byte → Byte) :
    ∃ t, onSource r (logicOn f) s = .next t ∧ t.a = f s.a (s.sourceByte r) ∧ NZOf (f s.a (s.sourceByte r)) t ∧
      t.x = s.x ∧ t.y = s.y ∧ t.sp = s.sp ∧ t.pc = s.pc ∧ ReadKept [bitZ, bitN] r s t := by
  obtain ⟨hnext, hkept⟩ := onSource_readKept hidle r (f := logicOn f)
    (fun _ u => (withReg_setNZ_changesAtMost u .a _ _).flags) (fun _ u => load_restKept .a _ u)
  exact ⟨_, hnext, rfl, setNZ_NZOf _ _, rfl, rfl, rfl, rfl, hkept⟩

/-! ### The opcode bytes of the shifts -/

theorem shiftForms_of_layout {k : ShiftOp → Instr} {acc zp zpx abs absxw : Byte}
    (hacc : layout acc = .implied (k .acc)) (hzp : layout zp = .byte fun d => k (.zp d))
    (hzpx : layout zpx = .byte fun d => k (.zpx d)) (habs : layout abs = .word fun a => k (.abs a))
    (habsxw : layout absxw = .word fun a => k (.absxw a)) : ShiftForms k acc zp zpx abs absxw := fun b c =>
  ⟨decodes_implied hacc, decodes_byte hzp b, decodes_byte hzpx b, decodes_word habs b c, decodes_word habsxw b c⟩

/-! ### The results of the shifts -/

theorem getLsbD_zero (v : Byte) : v.getLsbD 0 = decide (v.toNat % 2 = 1) := Nat.testBit_zero v.toNat

section Results

variable (v : Byte) (c : Bool)

theorem shiftAsl_r : (shiftAsl v c).r.toNat = v.toNat * 2 % 256 := by
  rw [shiftAsl, BitVec.toNat_shiftLeft, Nat.shiftLeft_eq]

theorem shiftLsr_r : (shiftLsr v c).r.toNat = v.toNat / 2 := by
  rw [shiftLsr, BitVec.toNat_ushiftRight, Nat.shiftRight_eq_div_pow]

/-- The doubled byte leaves bit 0 free for the old carry (R81). -/
theorem shiftRol_r : (shiftRol v c).r.toNat = v.toNat * 2 % 256 + c.toNat := by
  have hc : c.toNat < 2 ^ 1 := c.toNat_lt
  have hdouble : v.toNat * 2 % 256 = (v.toNat % 128) <<< 1 := by omega
  rw [hdouble, Nat.shiftLeft_add_eq_or_of_lt hc, ← hdouble, ← shiftAsl_r v c]
  cases c <;> rfl

/-- The halved byte leaves bit 7 free for the old carry (R82). -/
theorem shiftRor_r : (shiftRor v c).r.toNat = v.toNat / 2 + 128 * c.toNat := by
  have hv : v.toNat / 2 < 2 ^ 7 := by omega
  have hcarry : 128 * c.toNat = c.toNat <<< 7 := by omega
  rw [hcarry, Nat.add_comm, Nat.shiftLeft_add_eq_or_of_lt hv, Nat.or_comm, ← shiftLsr_r v c]
  cases c <;> rfl

/-! The carry is the bit shifted out. -/

theorem shiftAsl_c : (shiftAsl v c).c = decide (128 ≤ v.toNat) := getLsbD_seven v
theorem shiftLsr_c : (shiftLsr v c).c = decide (v.toNat % 2 = 1) := getLsbD_zero v
theorem shiftRol_c : (shiftRol v c).c = decide (128 ≤ v.toNat) := getLsbD_seven v
theorem shiftRor_c : (shiftRor v c).c = decide (v.toNat % 2 = 1) := getLsbD_zero v

end Results

/-! ### The state a read-modify-write leaves -/

/-- The common rule of the read-modify-writes (R79 to R84): `modifyAt_kept`, with `P` read flag by flag. -/
theorem modifyAt_stored {s : State} (hidle : s.hostIdle) {m : AddrMode} (hcrossing : crossing m s = 0) {ks : List Nat}
    {f : Byte → State → Byte × State} (hf : ∀ v u, f v u = ((f v u).1, u.withP (f v u).2.p))
    (hflags : ∀ v u, FlagsKept ks u (f v u).2) :
    let ea := (resolve m s).1
    let o := f (s.peek ea) (s.withPia (s.pia.afterRead ea))
    ∃ t, modifyAt m f s = .next t ∧ (∀ k, t.flag k = o.2.flag k) ∧ Stored ea o.1 (s.pia.afterRead ea) s t ∧
      RegsKept s t ∧ FlagsKept ks s t ∧ t.cycles = s.cycles ∧ InputsKept s t := by
  intro ea o
  obtain ⟨t, hnext, hp, hstored, hregs, hcycles, hinputs⟩ := modifyAt_kept hidle m hcrossing f hf
  have hflag (k : Nat) : t.flag k = o.2.flag k := congrArg (·.getLsbD k) hp
  exact ⟨t, hnext, hflag, hstored, hregs, fun k hk => (hflag k).trans (hflags _ _ k hk), hcycles, hinputs⟩

theorem NZOf.of_flags {v : Byte} {t u : State} (h : NZOf v u) (hflag : ∀ k, t.flag k = u.flag k) : NZOf v t :=
  have ⟨hz, hn⟩ := h
  ⟨(hflag bitZ).trans hz, (hflag bitN).trans hn⟩

/-! ### The state a shift leaves -/

@[simp] theorem State.shiftFlags_flagC (o : ShiftResult) (s : State) : (s.shiftFlags o).flagC = o.c := by
  simp [State.shiftFlags]

theorem shiftFlags_NZOf (o : ShiftResult) (s : State) : NZOf o.r (s.shiftFlags o) := setNZ_NZOf _ _

/-- The memory modes of the shifts have no page-crossing charge beside the base count (R51). -/
theorem crossing_shiftOp {m : ShiftOp} {mode : AddrMode} (h : m.place = .mem mode) (s : State) :
    crossing mode s = 0 := by
  cases m <;> cases h <;> rfl

/-- From `s` to `t`, the byte at the place is shifted: `r` is the result and `out` the carry, in integers. -/
def ShiftedAt (p : Place) (r : Nat → Nat) (out : Nat → Bool) (s t : State) : Prop :=
  match p with
  | .acc => t.a.toNat = r s.a.toNat ∧ t.flagC = out s.a.toNat ∧ NZOf t.a t ∧ MemoryKept s t ∧ t.pia = s.pia
  | .mem mode =>
    let ea := (resolve mode s).1
    ∃ w : Byte, w.toNat = r (s.peek ea).toNat ∧ t.flagC = out (s.peek ea).toNat ∧ NZOf w t ∧ t.a = s.a ∧
      Stored ea w (s.pia.afterRead ea) s t

/-- The common rule of ASL, LSR, ROL and ROR (R79 to R82), given the result and the carry in integers. -/
theorem shiftOn_shifted {s : State} (hidle : s.hostIdle) (m : ShiftOp) {f : Byte → Bool → ShiftResult} {r : Nat → Nat}
    {out : Nat → Bool} (hr : ∀ v, (f v s.flagC).r.toNat = r v.toNat) (hout : ∀ v, (f v s.flagC).c = out v.toNat) :
    ∃ t, shiftOn f m.place s = .next t ∧ t.x = s.x ∧ t.y = s.y ∧ t.sp = s.sp ∧ t.pc = s.pc ∧ t.cycles = s.cycles ∧
      InputsKept s t ∧ FlagsKept [bitC, bitZ, bitN] s t ∧ ShiftedAt m.place r out s t := by
  cases hplace : m.place with
  | acc =>
    refine ⟨_, rfl, rfl, rfl, rfl, rfl, rfl, .refl s, (shiftFlags_changesAtMost s _).flags, hr s.a, ?_,
      shiftFlags_NZOf _ s, fun _ => rfl, rfl⟩
    exact (State.shiftFlags_flagC _ s).trans (hout s.a)
  | mem mode =>
    obtain ⟨t, hnext, hflag, hstored, ⟨ha, hx, hy, hsp, hpc⟩, hflags, hcycles, hinputs⟩ :=
      modifyAt_stored hidle (crossing_shiftOp hplace s)
        (f := fun v u => ((f v u.flagC).r, u.shiftFlags (f v u.flagC))) (fun _ _ => rfl)
        (fun _ u => (shiftFlags_changesAtMost u _).flags)
    refine ⟨t, hnext, hx, hy, hsp, hpc, hcycles, hinputs, hflags, _, hr _, ?_, (shiftFlags_NZOf _ _).of_flags hflag, ha,
      hstored⟩
    exact ((hflag bitC).trans (State.shiftFlags_flagC _ _)).trans (hout _)

end Sys2Proof.Machine
end

section

open Sys2Proof Sys2Proof.Machine

/-- Settles O40: each of the three is the common rule of the logic operations. -/
theorem logicCombinesIntoA : Obligations.LogicCombinesIntoA := by
  unfold Obligations.LogicCombinesIntoA
  exact ⟨readForms_of_layout rfl rfl rfl rfl rfl rfl rfl rfl, readForms_of_layout rfl rfl rfl rfl rfl rfl rfl rfl,
    readForms_of_layout rfl rfl rfl rfl rfl rfl rfl rfl, fun s m hidle => ⟨onSource_logic hidle m.source (· &&& ·),
      onSource_logic hidle m.source (· ||| ·), onSource_logic hidle m.source (· ^^^ ·)⟩⟩

/-- Settles O41: each of the four is the common rule of the shifts, at its own result and carry. -/
theorem shiftsMoveOneBit : Obligations.ShiftsMoveOneBit := by
  unfold Obligations.ShiftsMoveOneBit
  refine ⟨shiftForms_of_layout rfl rfl rfl rfl rfl, shiftForms_of_layout rfl rfl rfl rfl rfl,
    shiftForms_of_layout rfl rfl rfl rfl rfl, shiftForms_of_layout rfl rfl rfl rfl rfl, fun s m hidle => ?_⟩
  intro c shifted
  have hrule {i : Instr} {f : Byte → Bool → ShiftResult} {r : Nat → Nat} {out : Nat → Bool}
      (hexec : exec i s = shiftOn f m.place s) (hr : ∀ v, (f v s.flagC).r.toNat = r v.toNat)
      (hout : ∀ v, (f v s.flagC).c = out v.toNat) : shifted i r out := by
    obtain ⟨t, hnext, hshifted⟩ := shiftOn_shifted hidle m hr hout
    exact ⟨t, hexec.trans hnext, hshifted⟩
  clear_value shifted
  exact ⟨hrule rfl (shiftAsl_r · _) (shiftAsl_c · _), hrule rfl (shiftLsr_r · _) (shiftLsr_c · _),
    hrule rfl (shiftRol_r · _) (shiftRol_c · _), hrule rfl (shiftRor_r · _) (shiftRor_c · _)⟩

end

section
/-! Increments, decrements and BIT (R83 to R89): a count modulo 256 in integers, and the state that the instructions of
this family leave. -/

namespace Sys2Proof.Machine

theorem toNat_increment (v : Byte) : (v + 1#8).toNat = (v.toNat + 1) % 256 := BitVec.toNat_add v 1#8

theorem toNat_decrement (v : Byte) : (v - 1#8).toNat = (v.toNat + 255) % 256 := by
  rw [BitVec.toNat_sub, Nat.add_comm]
  rfl

/-! ### INC and DEC -/

theorem incForms_of_layout {k : IncOp → Instr} {zp zpx abs absxw : Byte} (hzp : layout zp = .byte fun d => k (.zp d))
    (hzpx : layout zpx = .byte fun d => k (.zpx d)) (habs : layout abs = .word fun a => k (.abs a))
    (habsxw : layout absxw = .word fun a => k (.absxw a)) : IncForms k zp zpx abs absxw := fun b c =>
  ⟨decodes_byte hzp b, decodes_byte hzpx b, decodes_word habs b c, decodes_word habsxw b c⟩

/-- The modes of INC and DEC have no page-crossing charge beside the base count (R51). -/
theorem crossing_incOp (m : IncOp) (s : State) : crossing m.mode s = 0 := by cases m <;> rfl

/-- The common rule of INC and DEC (R83, R84), given the result in integers. -/
theorem modifyAt_counted {s : State} (hidle : s.hostIdle) (m : IncOp) {f : Byte → Byte} {r : Nat → Nat}
    (hr : ∀ v, (f v).toNat = r v.toNat) :
    let ea := (resolve m.mode s).1
    ∃ (t : State) (w : Byte), modifyAt m.mode (fun v u => (f v, u.setNZ (f v))) s = .next t ∧
      w.toNat = r (s.peek ea).toNat ∧ NZOf w t ∧ Stored ea w (s.pia.afterRead ea) s t ∧
      RegsKept s t ∧ FlagsKept [bitZ, bitN] s t ∧ t.cycles = s.cycles ∧ InputsKept s t := by
  obtain ⟨t, hnext, hflag, hstored, hkept⟩ := modifyAt_stored hidle (crossing_incOp m s)
    (f := fun v u => (f v, u.setNZ (f v))) (fun _ _ => rfl) (fun v u => setNZ_flagsKept (f v) u)
  exact ⟨t, _, hnext, hr _, (setNZ_NZOf _ _).of_flags hflag, hstored, hkept⟩

/-! ### INX, INY, DEX and DEY -/

/-- The common rule of the four (R85 to R88): the register `q` takes the count, and N and Z tell of it; `q'` stands for
the index register that does not count. -/
theorem exec_counted (q q' : ByteReg) {s : State} {i : Instr} {v : Byte} {n : Nat}
    (hexec : exec i s = .next ((s.withReg q v).setNZ v)) (hv : v.toNat = n)
    (hother : q' ≠ q) (ha : .a ≠ q) (hsp : .sp ≠ q) :
    ∃ t, exec i s = .next t ∧ (t.reg q).toNat = n ∧ NZOf (t.reg q) t ∧ t.reg q' = s.reg q' ∧
      t.a = s.a ∧ t.sp = s.sp ∧ t.pc = s.pc ∧ FlagsKept [bitZ, bitN] s t ∧ RestKept s t := by
  obtain ⟨hregs, hflags⟩ := withReg_setNZ_changesAtMost s q v v
  have hkept {p : ByteReg} (hne : p ≠ q) := hregs p (mt List.mem_singleton.mp hne)
  refine ⟨_, hexec, ?_, ?_, hkept hother, hkept ha, hkept hsp, load_pc q v s, hflags, load_restKept q v s⟩
  · rw [load_reg, hv]
  · rw [load_reg]
    exact setNZ_NZOf v _

/-! ### BIT -/

section Operation

variable (v : Byte) (s : State)

@[simp] theorem bitOn_flagZ : (bitOn v s).flagZ = decide (s.a &&& v = 0x00#8) := by
  simp [bitOn, beq_eq_decide]

@[simp] theorem bitOn_flagN : (bitOn v s).flagN = v.toNat.testBit 7 :=
  (State.setFlagV_flagN _ _).trans (State.setFlagN_flagN _ _)

@[simp] theorem bitOn_flagV : (bitOn v s).flagV = v.toNat.testBit 6 :=
  State.setFlagV_flagV _ _

theorem bitOn_restKept : RestKept s (bitOn v s) := ⟨fun _ => rfl, rfl, rfl, .refl s⟩

end Operation

/-- The rule of BIT (R89): it works on its operand byte with `P` alone. -/
theorem onSource_bit {s : State} (hidle : s.hostIdle) (r : Source) :
    ∃ t, onSource r bitOn s = .next t ∧ t.flagZ = decide (s.a &&& s.sourceByte r = 0x00#8) ∧
      t.flagN = (s.sourceByte r).toNat.testBit 7 ∧ t.flagV = (s.sourceByte r).toNat.testBit 6 ∧
      RegsKept s t ∧ ReadKept [bitZ, bitN, bitV] r s t := by
  obtain ⟨hnext, hkept⟩ := onSource_readKept hidle r (fun v u => (bitOn_changesAtMost u v).flags) bitOn_restKept
  exact ⟨_, hnext, bitOn_flagZ _ _, bitOn_flagN _ _, bitOn_flagV _ _, ⟨rfl, rfl, rfl, rfl, rfl⟩, hkept⟩

end Sys2Proof.Machine
end

section

open Sys2Proof Sys2Proof.Machine

/-- Settles O42: each of the two is the common rule of INC and DEC, at its own count. -/
theorem incAndDecModifyMemory : Obligations.IncAndDecModifyMemory := by
  unfold Obligations.IncAndDecModifyMemory
  exact ⟨incForms_of_layout rfl rfl rfl rfl, incForms_of_layout rfl rfl rfl rfl, fun _ m hidle =>
    ⟨modifyAt_counted hidle m (f := (· + 1#8)) (r := fun v => (v + 1) % 256) toNat_increment,
      modifyAt_counted hidle m (f := (· - 1#8)) (r := fun v => (v + 255) % 256) toNat_decrement⟩⟩

/-- Settles O44: the rule of BIT at an operand in memory. -/
theorem bitTestsMemory : Obligations.BitTestsMemory := by
  unfold Obligations.BitTestsMemory
  exact ⟨fun _ _ => ⟨decodes_byteForm rfl rfl, decodes_wordForm rfl rfl⟩,
    fun _ m hidle => onSource_bit hidle (.mem m.mode)⟩

/-- Settles O43: each of the four is the common rule of the counts, at its own register. -/
theorem indexRegistersCount : Obligations.IndexRegistersCount := by
  unfold Obligations.IndexRegistersCount
  refine ⟨decodes_implied rfl, decodes_implied rfl, decodes_implied rfl, decodes_implied rfl, fun s => ?_⟩
  exact ⟨exec_counted .x .y rfl (toNat_increment s.x) nofun nofun nofun,
    exec_counted .y .x rfl (toNat_increment s.y) nofun nofun nofun,
    exec_counted .x .y rfl (toNat_decrement s.x) nofun nofun nofun,
    exec_counted .y .x rfl (toNat_decrement s.y) nofun nofun nofun⟩

end

section
/-! Stack and system instructions (R90 to R95): what a series of pushes leaves, what the pulls after it read, and the
state each handler operation answers with an idle host. -/

namespace Sys2Proof.Machine

/-! ### A series of pushes -/

/-- Two of the 256 places below one stack pointer are different bytes of page 1 (R12). -/
theorem stackAddr_sub_ne (sp : Byte) {m n : Nat} (hm : m < 256) (hn : n < 256) (hne : m ≠ n) :
    stackAddr (sp - BitVec.ofNat 8 m) ≠ stackAddr (sp - BitVec.ofNat 8 n) := by
  rw [Ne, stackAddr_inj]
  bv_omega

namespace Pushed

variable {vs ws : List Byte} {s t u : State}

/-- Only memory and SP matter. -/
theorem of_eq {s' t' : State} (h : Pushed vs s t) (hs : s'.mem = s.mem ∧ s'.sp = s.sp)
    (ht : t'.mem = t.mem ∧ t'.sp = t.sp) : Pushed vs s' t' := by
  simpa only [Pushed, hs, ht] using h

/-- The bytes pushed later lie below the ones pushed before; page 1 holds 256. -/
theorem trans (h : Pushed vs s t) (h' : Pushed ws t u) (hfits : vs.length + ws.length ≤ 256) :
    Pushed (vs ++ ws) s u := by
  obtain ⟨hsp, hstored, hkept⟩ := h
  obtain ⟨hsp', hstored', hkept'⟩ := h'
  have hslot (n : Nat) : t.sp - BitVec.ofNat 8 n = s.sp - BitVec.ofNat 8 (vs.length + n) := by
    rw [hsp, BitVec.ofNat_add, sub_add_eq_sub_sub]
  simp only [hslot] at hsp' hstored' hkept'
  unfold Pushed
  rw [List.length_append]
  refine ⟨hsp', fun n hn => ?_, fun b hb => ?_⟩
  · rcases Nat.lt_or_ge n vs.length with hlt | hge
    · rw [hkept' _ fun m hm => stackAddr_sub_ne s.sp (by omega) (by omega) (by omega), hstored n hlt,
        List.getD_append _ _ _ _ hlt]
    · rw [List.getD_append_right _ _ _ _ hge, ← hstored' (n - vs.length) (by omega), Nat.add_sub_cancel' hge]
  · rw [hkept' b fun m hm => hb _ (by omega), hkept b fun m hm => hb m (by omega)]

/-- The bytes come off the stack last one first (R15, R16). -/
theorem stackByte (h : Pushed vs s t) {n : Nat} (hn : n < vs.length) :
    t.stackByte (BitVec.ofNat 8 (vs.length - n)) = vs.getD n 0x00#8 := by
  obtain ⟨hsp, hstored, -⟩ := h
  have hslot : t.sp + BitVec.ofNat 8 (vs.length - n) = s.sp - BitVec.ofNat 8 n := by
    rw [hsp, ← Nat.add_sub_cancel' hn.le, BitVec.ofNat_add, sub_add_eq_sub_sub, Nat.add_sub_cancel_left,
      BitVec.sub_add_cancel]
  rw [State.stackByte, hslot, hstored n hn]

/-- As many pulls as there were pushes bring SP back. -/
theorem sp_add (h : Pushed vs s t) : t.sp + BitVec.ofNat 8 vs.length = s.sp := by
  rw [h.1, BitVec.sub_add_cancel]

end Pushed

section IdleHost

variable {s : State} (hidle : s.hostIdle)
include hidle

theorem push8_kept (v : Byte) : (push8 v s).a = s.a ∧ (push8 v s).x = s.x ∧ (push8 v s).y = s.y ∧
    (push8 v s).pc = s.pc ∧ (push8 v s).p = s.p ∧ (push8 v s).pia = s.pia ∧ (push8 v s).cycles = s.cycles ∧
    InputsKept s (push8 v s) := by
  rw [push8_idle hidle]
  exact ⟨rfl, rfl, rfl, rfl, rfl, rfl, rfl, .refl s⟩

theorem push16_hostIdle (w : Addr) : (push16 w s).hostIdle := push8_hostIdle (push8_hostIdle hidle _) _

theorem push16_pushed (w : Addr) : Pushed [hi8 w, lo8 w] s (push16 w s) :=
  (push8_pushed hidle _).trans (push8_pushed (push8_hostIdle hidle _) _) (by simp)

/-! ### Taking an exception and returning from it -/

theorem enterHandler_hostIdle (e : Entry) : (enterHandler e s).hostIdle := by
  rw [enterHandler_idle hidle]
  cases e <;> exact hidle

/-- The frame every entry leaves (R94, R129, R130, R133). -/
theorem enterHandler_pushed (e : Entry) : Pushed [hi8 s.pc, lo8 s.pc, e.status s] s (enterHandler e s) := by
  have hpushed := (push16_pushed hidle s.pc).trans (push8_pushed (push16_hostIdle hidle s.pc) (e.status s)) (by simp)
  obtain ⟨hmem, hsp, -⟩ := enterHandler_frame hidle e
  refine hpushed.of_eq ⟨rfl, rfl⟩ ?_
  rw [hmem, hsp, push8_idle (push16_hostIdle hidle s.pc), push16_idle hidle]
  exact ⟨rfl, rfl⟩

/-- The frame lies in page 1, so PC is loaded from the vector as it stood before the entry (R33, R133). -/
theorem enterHandler_pc (e : Entry) :
    (enterHandler e s).pc = addrOf (s.mem.read (e.vector + 1#16)) (s.mem.read e.vector) := by
  have hvector (z : Byte) : e.vector ≠ stackAddr z ∧ e.vector + 1#16 ≠ stackAddr z := by
    cases e <;> revert z <;> decide
  rw [enterHandler_idle hidle, State.withPc_pc]
  simp only [entryMem_read, (hvector _).1, (hvector _).2, if_false]

/-- What RTI answers, with the pulled bytes counted from SP (R95). -/
theorem exec_rti : exec .rti s = .next
    (((s.withSp (s.sp + 3#8)).writeP (s.stackByte 1#8)).withPc (addrOf (s.stackByte 3#8) (s.stackByte 2#8))) := by
  have htwo : s.sp + 1#8 + 1#8 = s.sp + 2#8 := BitVec.add_assoc _ _ _
  have hthree : s.sp + 2#8 + 1#8 = s.sp + 3#8 := BitVec.add_assoc _ _ _
  show Host.Outcome.next (returnFromHandler s) = _
  rw [returnFromHandler_idle hidle, htwo, hthree]
  rfl

/-- RTI in a state whose top three bytes are a frame. -/
theorem exec_rti_of_pushed {hi lo status : Byte} {t : State} (h : Pushed [hi, lo, status] t s) :
    exec .rti s = .next (((s.withSp t.sp).writeP status).withPc (addrOf hi lo)) := by
  have hhigh : s.stackByte 3#8 = hi := h.stackByte (n := 0) (by simp)
  have hlow : s.stackByte 2#8 = lo := h.stackByte (n := 1) (by simp)
  have hstatus : s.stackByte 1#8 = status := h.stackByte (n := 2) (by simp)
  have hsp : s.sp + 3#8 = t.sp := h.sp_add
  rw [exec_rti hidle, hhigh, hlow, hstatus, hsp]

end IdleHost

/-- The bits of `P` as an entry's frame gives them back: the pushed B is 0 but for BRK's own entry; bit 5, which reads 1
in every copy, is left out (R18, R133). -/
theorem getLsbD_status (e : Entry) (s : State) {k : Nat} (h5 : k ≠ 5) :
    (e.status s ||| 0x20#8).getLsbD k = if k = bitB ∧ e ≠ .brk then false else s.flag k := by
  have hset (v : Byte) : (v ||| 0x20#8).getLsbD k = v.getLsbD k :=
    (getLsbD_putBit v 5 k true (by decide)).trans (if_neg h5)
  have hmask (v : Byte) : (v &&& 0xEF#8).getLsbD k = if k = bitB then false else v.getLsbD k :=
    getLsbD_putBit v bitB k false (by decide)
  cases e
  case brk => simp [Entry.status, State.readP, hset, State.flag]
  case irq | nmi => simp [Entry.status, State.readP, hset, hmask, State.flag]

end Sys2Proof.Machine
end

section

open Sys2Proof Sys2Proof.Machine

/-- Settles O45: each of the two is one push; two of the set bits of the pushed copy of `P` are put in on the way. -/
theorem phaAndPhpPush : Obligations.PhaAndPhpPush := by
  unfold Obligations.PhaAndPhpPush
  refine ⟨decodes_implied rfl, decodes_implied rfl, fun s hidle => ⟨?_, ?_⟩⟩
  · exact ⟨_, rfl, push8_pushed hidle s.a, push8_kept hidle s.a⟩
  · have hcopy : s.readP ||| 0x10#8 = s.p ||| 0x30#8 := BitVec.or_assoc _ _ _
    exact ⟨_, rfl, hcopy ▸ push8_pushed hidle _, push8_kept hidle _⟩

/-- Settles O46: `pull8_idle`, and what a load of A or of `P` keeps. -/
theorem plaAndPlpPull : Obligations.PlaAndPlpPull := by
  unfold Obligations.PlaAndPlpPull
  refine ⟨decodes_implied rfl, decodes_implied rfl, fun s hidle => ?_⟩
  have hpull : pull8 s = (s.stackByte 1#8, s.withSp (s.sp + 1#8)) := pull8_idle hidle
  have hsp := toNat_increment s.sp
  have hrest : RestKept s (s.withSp (s.sp + 1#8)) := ⟨fun _ => rfl, rfl, rfl, .refl s⟩
  refine ⟨⟨_, rfl, ?_⟩, ⟨_, rfl, ?_⟩⟩ <;> rw [hpull]
  · exact ⟨rfl, setNZ_NZOf _ _, hsp, rfl, rfl, rfl, setNZ_flagsKept _ _, hrest⟩
  · exact ⟨rfl, hsp, rfl, rfl, rfl, rfl, hrest⟩

/-- Settles O47: the entry of a handler, from the state with B set. -/
theorem brkTakesTheException : Obligations.BrkTakesTheException := by
  unfold Obligations.BrkTakesTheException
  refine ⟨decodes_padded rfl, rfl, fun s hidle => ?_⟩
  have hidleB : (s.setFlag bitB true).hostIdle := hidle
  have hstatus : Entry.brk.status (s.setFlag bitB true) = s.p ||| 0x30#8 := BitVec.or_assoc _ _ _
  have hpushed := enterHandler_pushed hidleB .brk
  rw [hstatus] at hpushed
  obtain ⟨-, -, -, ha, hx, hy, hpia, hcycles, -⟩ := enterHandler_frame hidleB .brk
  have hflagB := (enterHandler_brk_changesAtMost (s.setFlag bitB true)).flags bitB (by decide)
  exact ⟨_, rfl, hpushed, hflagB.trans (State.setFlagB_flagB true s), enterHandler_flagI hidleB .brk,
    (exec_changesAtMost s .brk _ rfl).flags, enterHandler_pc hidleB .brk, ha, hx, hy, hpia, hcycles,
    noInstructionWritesTheInputs.1 .brk s _ hidle rfl⟩

/-- Settles O48: the three pulls of the return, counted from SP. -/
theorem rtiPullsStatusAndPc : Obligations.RtiPullsStatusAndPc := by
  unfold Obligations.RtiPullsStatusAndPc
  exact ⟨decodes_implied rfl, fun s hidle => ⟨_, exec_rti hidle, rfl, rfl, BitVec.toNat_add s.sp 3#8, rfl, rfl, rfl,
    fun _ => rfl, rfl, rfl, .refl s⟩⟩

/-- Settles O17: the return pulls the three bytes the entry pushed, and an entry keeps A, X and Y. -/
theorem rtiUndoesAnInterruptEntry : Obligations.RtiUndoesAnInterruptEntry := by
  unfold Obligations.RtiUndoesAnInterruptEntry
  intro s e hidle
  have hreturn := exec_rti_of_pushed (enterHandler_hostIdle hidle e) (enterHandler_pushed hidle e)
  obtain ⟨-, -, -, ha, hx, hy, -⟩ := enterHandler_frame hidle e
  generalize enterHandler e s = u at *
  refine ⟨_, hreturn, addrOf_hi8_lo8 s.pc, rfl, fun k hk => ?_, ?_, ha, hx, hy⟩
  · have hother : k ≠ bitB ∧ k ≠ 5 := by simpa using hk
    exact (getLsbD_status e s hother.2).trans (if_neg fun h => hother.1 h.1)
  · refine (getLsbD_status e s (k := bitB) (by decide)).trans ?_
    cases e <;> rfl

end

section
/-! Jumps and subroutines (R96 to R98): the fetch of a three-byte instruction outside the PIA, where the pointer of JMP has
its high byte, and what RTS answers. -/

namespace Sys2Proof.Machine

/-! ### The fetch of a three-byte instruction, and JMP -/

/-- Three bytes fetched outside the PIA change PC only (R40, R42). -/
theorem fetchInstr_word_ordinary {s : State} {k : Addr → Instr} (hidle : s.hostIdle) (hop : isPia s.pc = false)
    (hlo : isPia (s.pc + 1#16) = false) (hhi : isPia (s.pc + 2#16) = false) (h : layout (s.mem.read s.pc) = .word k) :
    fetchInstr s = (k (addrOf (s.mem.read (s.pc + 2#16)) (s.mem.read (s.pc + 1#16))), s.withPc (s.pc + 3#16)) := by
  have htwo : s.pc + 1#16 + 1#16 = s.pc + 2#16 := BitVec.add_assoc _ _ _
  have hthree : s.pc + 2#16 + 1#16 = s.pc + 3#16 := BitVec.add_assoc _ _ _
  have hfirst : fetch8 s = (s.mem.read s.pc, s.withPc (s.pc + 1#16)) := fetch8_ordinary hidle hop
  have hsecond : fetch8 (s.withPc (s.pc + 1#16)) = (s.mem.read (s.pc + 1#16), s.withPc (s.pc + 2#16)) :=
    htwo ▸ fetch8_ordinary (s := s.withPc (s.pc + 1#16)) hidle hlo
  have hthird : fetch8 (s.withPc (s.pc + 2#16)) = (s.mem.read (s.pc + 2#16), s.withPc (s.pc + 3#16)) :=
    hthree ▸ fetch8_ordinary (s := s.withPc (s.pc + 2#16)) hidle hhi
  rw [fetchInstr_word (k := k) (by rw [hfirst, h]), hfirst, hsecond, hthird]

/-- Where nothing comes before the fetch, a step runs and charges the instruction it fetches (R127). -/
theorem step_atFetch {s t u : State} {i : Instr} (h : s.atFetch) (hfetch : fetchInstr s = (i, t))
    (hexec : exec i t = .next u) : step s = .next (u.addCycles (baseCycles i)) := by
  rw [step, boundary_atFetch h, hfetch, hexec, charge_next]

theorem exec_jmp_abs (a : Addr) (s : State) : exec (.jmp (.abs a)) s = .next (s.withPc a) := rfl

/-- At the default of JMP_IND_PAGE_WRAP the high byte of the target is the next byte of the pointer's own page (R52). -/
theorem toNat_jmpIndHigh (p : Addr) :
    (jmpIndHigh jmpIndPageWrap p).toNat = p.toNat / 256 * 256 + (p.toNat + 1) % 256 := by
  show (addrOf (hi8 p) (lo8 p + 1#8)).toNat = _
  rw [toNat_addrOf, toNat_hi8, toNat_increment, toNat_lo8, Nat.mod_add_mod]

/-! ### JSR and RTS -/

theorem hi8_eq_ofNat (w : Addr) : hi8 w = BitVec.ofNat 8 (w.toNat / 256) := by
  rw [← toNat_hi8, BitVec.ofNat_toNat, BitVec.setWidth_eq]

theorem lo8_eq_ofNat (w : Addr) : lo8 w = BitVec.ofNat 8 (w.toNat % 256) := by
  rw [← toNat_lo8, BitVec.ofNat_toNat, BitVec.setWidth_eq]

theorem toNat_pred (w : Addr) : (w - 1#16).toNat = (w.toNat + 65535) % 65536 := by
  rw [BitVec.toNat_sub]
  exact congrArg (· % 65536) (Nat.add_comm 65535 w.toNat)

section IdleHost

variable {s : State} (hidle : s.hostIdle)
include hidle

/-- What JSR answers: its one change beside PC is the push of the address of its last byte (R97). -/
theorem exec_jsr (a : Addr) : ∃ t, exec (.jsr a) s = .next t ∧
    Pushed [hi8 (s.pc - 1#16), lo8 (s.pc - 1#16)] s t ∧ t.pc = a ∧ t.a = s.a ∧ t.x = s.x ∧ t.y = s.y ∧ t.p = s.p ∧
    t.pia = s.pia ∧ t.cycles = s.cycles ∧ InputsKept s t := by
  have hpushed : Pushed [hi8 (s.pc - 1#16), lo8 (s.pc - 1#16)] s ((push16 (s.pc - 1#16) s).withPc a) :=
    (push16_pushed hidle _).of_eq ⟨rfl, rfl⟩ ⟨rfl, rfl⟩
  refine ⟨_, rfl, hpushed, rfl, ?_⟩
  rw [push16_idle hidle]
  exact ⟨rfl, rfl, rfl, rfl, rfl, rfl, .refl s⟩

/-- What RTS answers, with the pulled bytes counted from SP (R98). -/
theorem exec_rts : exec .rts s = .next
    ((s.withSp (s.sp + 2#8)).withPc (addrOf (s.stackByte 2#8) (s.stackByte 1#8) + 1#16)) := by
  have htwo : s.sp + 1#8 + 1#8 = s.sp + 2#8 := BitVec.add_assoc _ _ _
  show execRts s = _
  rw [execRts, pull16_idle hidle, htwo]
  rfl

/-- RTS in a state whose top two bytes are a return address. -/
theorem exec_rts_of_pushed {hi lo : Byte} {t : State} (h : Pushed [hi, lo] t s) :
    exec .rts s = .next ((s.withSp t.sp).withPc (addrOf hi lo + 1#16)) := by
  have hhigh : s.stackByte 2#8 = hi := h.stackByte (n := 0) (by simp)
  have hlow : s.stackByte 1#8 = lo := h.stackByte (n := 1) (by simp)
  have hsp : s.sp + 2#8 = t.sp := h.sp_add
  rw [exec_rts hidle, hhigh, hlow, hsp]

end IdleHost

end Sys2Proof.Machine
end

section

open Sys2Proof Sys2Proof.Machine

/-- Settles O13: the step fetches the JMP with PC past it, and the jump puts PC back. -/
theorem jumpToItselfIsAFixedPoint : Obligations.JumpToItselfIsAFixedPoint := by
  unfold Obligations.JumpToItselfIsAFixedPoint
  intro s hatFetch hop hlo hhi hopcode hlow hhigh
  have hlayout : layout (s.mem.read s.pc) = .word fun a => .jmp (.abs a) := by
    rw [hopcode]
    rfl
  have hfetch := fetchInstr_word_ordinary hatFetch.1 hop hlo hhi hlayout
  rw [hlow, hhigh, addrOf_hi8_lo8] at hfetch
  exact step_atFetch hatFetch hfetch (exec_jmp_abs s.pc _)

/-- Settles O31: JMP (ind) is the two reads of `readTwo_peek`, at the pointer and at `toNat_jmpIndHigh`. -/
theorem jmpGoesToItsTarget : Obligations.JmpGoesToItsTarget := by
  unfold Obligations.JmpGoesToItsTarget
  refine ⟨fun b c => ⟨decodes_wordForm rfl rfl, decodes_wordForm rfl rfl⟩,
    fun s hidle => ⟨fun a => exec_jmp_abs a s, fun p q hq => ?_⟩⟩
  obtain rfl : jmpIndHigh jmpIndPageWrap p = q := BitVec.eq_of_toNat_eq ((toNat_jmpIndHigh p).trans hq.symm)
  show execJmp (.ind p) s = _
  rw [execJmp, jumpTarget, readTwo_peek hidle]

/-- Settles O49: `exec_jsr`, with the two pushed bytes in integers. -/
theorem jsrPushesTheReturnAddress : Obligations.JsrPushesTheReturnAddress := by
  unfold Obligations.JsrPushesTheReturnAddress
  refine ⟨fun b c => decodes_word rfl b c, fun s a hidle => ?_⟩
  have hmod : (s.pc.toNat + 65535) % 65536 % 256 = (s.pc.toNat + 65535) % 256 := Nat.mod_mod_of_dvd _ (by decide)
  have hjsr := exec_jsr hidle a
  rwa [hi8_eq_ofNat, lo8_eq_ofNat, toNat_pred, hmod] at hjsr

/-- Settles O50: `exec_rts`, with PC and SP in integers. -/
theorem rtsReturnsPastTheAddress : Obligations.RtsReturnsPastTheAddress := by
  unfold Obligations.RtsReturnsPastTheAddress
  refine ⟨decodes_implied rfl, fun s hidle => ?_⟩
  have hpc (h l : Byte) : (addrOf h l + 1#16).toNat = (h.toNat * 256 + l.toNat + 1) % 65536 := by
    rw [BitVec.toNat_add, toNat_addrOf]
    rfl
  exact ⟨_, exec_rts hidle, hpc _ _, BitVec.toNat_add s.sp 2#8, rfl, rfl, rfl, rfl, fun _ => rfl, rfl, rfl, .refl s⟩

/-- Settles O51: RTS pulls the two bytes JSR pushed, and its increment makes up for JSR's decrement. -/
theorem rtsUndoesJsr : Obligations.RtsUndoesJsr := by
  unfold Obligations.RtsUndoesJsr
  intro s a hidle
  obtain ⟨t, hjsr, hpushed, -, -, -, -, -, -, -, hinputs⟩ := exec_jsr hidle a
  refine ⟨t, _, hjsr, exec_rts_of_pushed (hinputs.hostIdle hidle) hpushed, ?_, rfl⟩
  rw [State.withPc_pc, addrOf_hi8_lo8, BitVec.sub_add_cancel]

end

section
/-! Transfers, flag instructions, NOP and the undocumented opcodes (R108 to R126): the common rule of each of the three
kinds, for whatever instruction answers with that one update of the state. -/

namespace Sys2Proof.Machine

variable {s : State} {i : Instr}

/-- The common rule of the transfers that set flags (R108 to R111, R113): the register `q` takes the source byte `v`, and N
and Z tell of it. -/
theorem exec_transferred (q : ByteReg) (v : Byte) (hexec : exec i s = .next ((s.withReg q v).setNZ v)) :
    let u := s.withReg q v
    ∃ t, exec i s = .next t ∧
      (t.a = u.a ∧ t.x = u.x ∧ t.y = u.y ∧ t.sp = u.sp ∧ t.pc = s.pc ∧ RestKept s t) ∧
      NZOf v t ∧ FlagsKept [bitZ, bitN] s t :=
  ⟨_, hexec, ⟨rfl, rfl, rfl, rfl, load_pc q v s, load_restKept q v s⟩, setNZ_NZOf v _,
    (withReg_setNZ_changesAtMost s q v v).flags⟩

theorem setFlag_restKept (k : Nat) (b : Bool) (s : State) : RestKept s (s.setFlag k b) :=
  ⟨fun _ => rfl, rfl, rfl, .refl s⟩

/-- The common rule of the flag instructions (R114 to R120). -/
theorem exec_flagWritten {k : Nat} {b : Bool} (hk : k < 8) (hexec : exec i s = .next (s.setFlag k b)) :
    ∃ t, exec i s = .next t ∧ t.p.toNat.testBit k = b ∧ FlagsKept [k] s t ∧ RegsKept s t ∧ RestKept s t := by
  have hbit : (s.setFlag k b).flag k = b := (State.flag_setFlag k k b s hk).trans (if_pos rfl)
  exact ⟨_, hexec, hbit, (setFlag_changesAtMost s hk b).flags, ⟨rfl, rfl, rfl, rfl, rfl⟩, setFlag_restKept k b s⟩

/-- The common rule of the undocumented opcodes that move PC (R124 to R126): put PC back, and the state is the old one. -/
theorem exec_pcMoved {w : Addr} {n : Nat} (hexec : exec i s = .next (s.withPc w)) (hw : w.toNat = n) :
    ∃ t, exec i s = .next t ∧ t.pc.toNat = n ∧ t.withPc s.pc = s :=
  ⟨_, hexec, hw, rfl⟩

end Sys2Proof.Machine
end

section

open Sys2Proof Sys2Proof.Machine

/-- Settles O53: each transfer but TXS is the common rule at its own destination; TXS writes SP and no flag. -/
theorem transfersCopyARegister : Obligations.TransfersCopyARegister := by
  unfold Obligations.TransfersCopyARegister
  refine ⟨decodes_implied rfl, decodes_implied rfl, decodes_implied rfl, decodes_implied rfl, decodes_implied rfl,
    decodes_implied rfl, fun s => ⟨?tax, ?txa, ?tay, ?tya, ?txs, ?tsx⟩⟩
  case tax => exact exec_transferred .x s.a rfl
  case txa => exact exec_transferred .a s.x rfl
  case tay => exact exec_transferred .y s.a rfl
  case tya => exact exec_transferred .a s.y rfl
  case txs => exact ⟨s.withSp s.x, rfl, ⟨rfl, rfl, rfl, rfl, rfl, fun _ => rfl, rfl, rfl, .refl s⟩, fun _ _ => rfl⟩
  case tsx => exact exec_transferred .x s.sp rfl

/-- Settles O54: each of the seven is the common rule at its own bit and value. -/
theorem flagInstructionsWriteOneBit : Obligations.FlagInstructionsWriteOneBit := by
  unfold Obligations.FlagInstructionsWriteOneBit
  refine ⟨decodes_implied rfl, decodes_implied rfl, decodes_implied rfl, decodes_implied rfl, decodes_implied rfl,
    decodes_implied rfl, decodes_implied rfl, fun s => ⟨?clc, ?sec, ?cli, ?sei, ?clv, ?cld, ?sed⟩⟩
  case clc => exact exec_flagWritten (k := bitC) (by decide) rfl
  case sec => exact exec_flagWritten (k := bitC) (by decide) rfl
  case cli => exact exec_flagWritten (k := bitI) (by decide) rfl
  case sei => exact exec_flagWritten (k := bitI) (by decide) rfl
  case clv => exact exec_flagWritten (k := bitV) (by decide) rfl
  case cld => exact exec_flagWritten (k := bitD) (by decide) rfl
  case sed => exact exec_flagWritten (k := bitD) (by decide) rfl

/-- Settles O55: NOP and UNOP1 answer the state itself, the other three the state with PC moved. -/
theorem noOperationsMovePcOnly : Obligations.NoOperationsMovePcOnly := by
  unfold Obligations.NoOperationsMovePcOnly
  refine ⟨decodes_implied rfl, fun s op => ⟨rfl, rfl, ?unop2, ?unop3, ?uhang⟩⟩
  case unop2 => exact exec_pcMoved rfl (BitVec.toNat_add s.pc 1#16)
  case unop3 => exact exec_pcMoved rfl (BitVec.toNat_add s.pc 2#16)
  case uhang => exact exec_pcMoved rfl (toNat_pred s.pc)

end

section
/-! The fetch of any instruction outside the PIA (R40 to R43): it moves PC past the bytes the layout of its opcode byte
asks for. -/

namespace Sys2Proof.Machine

/-- The byte `n` places past `s.pc`, fetched outside the PIA with an idle host. -/
theorem fetch8_ahead {s : State} (hidle : s.hostIdle) {n : Nat} (hout : isPia (s.pc + BitVec.ofNat 16 n) = false) :
    fetch8 (s.withPc (s.pc + BitVec.ofNat 16 n)) =
      (s.mem.read (s.pc + BitVec.ofNat 16 n), s.withPc (s.pc + BitVec.ofNat 16 (n + 1))) := by
  have hnext : s.pc + BitVec.ofNat 16 n + 1#16 = s.pc + BitVec.ofNat 16 (n + 1) := by
    rw [BitVec.ofNat_add, BitVec.add_assoc]
  exact hnext ▸ fetch8_ordinary (s := s.withPc (s.pc + BitVec.ofNat 16 n)) hidle hout

theorem fetchInstr_padded {s : State} {i : Instr} (h : layout (fetch8 s).1 = .padded i) :
    fetchInstr s = (i, (fetch8 s).2.withPc ((fetch8 s).2.pc + 1#16)) := by
  simp only [fetchInstr, h]

theorem fetchInstr_undoc {s : State} {c : UndocClass} (h : layout (fetch8 s).1 = .undoc c) :
    fetchInstr s = (undocInstr c (fetch8 s).1, (fetch8 s).2) := by
  simp only [fetchInstr, h]

/-- An undocumented opcode byte is fetched alone (R123 to R126). -/
theorem fetchInstr_undoc_ordinary {s : State} {c : UndocClass} (hidle : s.hostIdle) (hop : isPia s.pc = false)
    (h : layout (s.mem.read s.pc) = .undoc c) :
    fetchInstr s = (undocInstr c (s.mem.read s.pc), s.withPc (s.pc + 1#16)) := by
  have hfirst := fetch8_ordinary hidle hop
  rw [fetchInstr_undoc (c := c) (by rw [hfirst, h]), hfirst]

theorem undocInstr_fetchLength (c : UndocClass) (op : Byte) : (undocInstr c op).fetchLength = 1 := by
  cases c <;> rfl

/-- The fetch of an entry of the matrix of R41 takes the whole instruction: UNOP2 and UNOP3 are no entries of it. -/
theorem Instr.fetchLength_of_documented {i : Instr} {op : Byte} {operands : List Byte} (hwf : i.wellFormed = true)
    (hencode : encode i = op :: operands) (hdoc : ∀ c, layout op ≠ .undoc c) :
    i.fetchLength = operands.length + 1 := by
  have hlength : i.length = operands.length + 1 := congrArg List.length hencode
  cases i
  case unop2 | unop3 =>
    obtain ⟨rfl, -⟩ := List.cons.inj hencode
    exact absurd (layout_eq_undoc hwf) (hdoc _)
  all_goals exact hlength

theorem layout_fetchLength {op : Byte} {l : Layout} (hl : layout op = l) (hdoc : ∀ c, l ≠ .undoc c) (d : Byte)
    (a : Addr) : (l.instr op d a).fetchLength = (l.operands d a).length + 1 := by
  subst hl
  obtain ⟨hwf, -, hencode⟩ := layout_encodes op d a
  exact Instr.fetchLength_of_documented hwf hencode hdoc

/-- The fetch and the decoder agree outside the PIA, and PC moves past the bytes fetched. -/
theorem fetchInstr_of_decode {s : State} {i : Instr} {rest : List Byte} (hidle : s.hostIdle) (hop : isPia s.pc = false)
    (hlo : isPia (s.pc + 1#16) = false) (hhi : isPia (s.pc + 2#16) = false)
    (h : decode [s.mem.read s.pc, s.mem.read (s.pc + 1#16), s.mem.read (s.pc + 2#16)] = .ok i rest) :
    fetchInstr s = (i, s.withPc (s.pc + BitVec.ofNat 16 i.fetchLength)) := by
  have hfirst : fetch8 s = (s.mem.read s.pc, s.withPc (s.pc + 1#16)) := fetch8_ordinary hidle hop
  cases hl : layout (s.mem.read s.pc) with
  | implied j =>
    simp only [decode, hl] at h
    cases h
    have hone : i.fetchLength = 1 := layout_fetchLength hl nofun 0 0
    rw [fetchInstr_implied (i := i) (by rw [hfirst, hl]), hfirst, hone]
  | byte k =>
    simp only [decode, hl] at h
    cases h
    have htwo : (k (s.mem.read (s.pc + 1#16))).fetchLength = 2 := layout_fetchLength hl nofun _ 0
    rw [fetchInstr_byte (k := k) (by rw [hfirst, hl]), hfirst, fetch8_ahead hidle hlo, htwo]
  | word k =>
    simp only [decode, hl] at h
    cases h
    have hthree : (k (addrOf (s.mem.read (s.pc + 2#16)) (s.mem.read (s.pc + 1#16)))).fetchLength = 3 :=
      layout_fetchLength hl nofun 0 _
    rw [fetchInstr_word_ordinary hidle hop hlo hhi hl, hthree]
  | padded j =>
    simp only [decode, hl] at h
    cases h
    have htwo : i.fetchLength = 2 := layout_fetchLength hl nofun 0 0
    have hskip : s.pc + 1#16 + 1#16 = s.pc + 2#16 := BitVec.add_assoc _ _ _
    rw [fetchInstr_padded (i := i) (by rw [hfirst, hl]), hfirst, htwo, ← hskip]
    rfl
  | undoc c =>
    obtain ⟨op, d, a, operands, hbytes, rfl, -⟩ := decode_eq_ok h
    obtain ⟨rfl, -⟩ := List.cons.inj hbytes
    rw [hl, Layout.instr, undocInstr_fetchLength, fetchInstr_undoc_ordinary hidle hop hl]

end Sys2Proof.Machine
end

section
/-! The services of the fetch boundary (R127, R129 to R131), with an idle host. -/

namespace Sys2Proof.Machine

/-- What IRQ service, NMI service and machine reset all do to `P`, bit by bit (R129, R130, R157). -/
theorem p_eq_setI_iff {s t : State} : t.p = putBit s.p bitI true ↔ t.flagI = true ∧ FlagsKept [bitI] s t := by
  have hbit (k : Nat) : (putBit s.p bitI true).getLsbD k = if k = bitI then true else s.flag k :=
    getLsbD_putBit s.p bitI k true (by decide)
  constructor
  · intro hp
    have hflag (k : Nat) : t.flag k = if k = bitI then true else s.flag k := (congrArg (·.getLsbD k) hp).trans (hbit k)
    exact ⟨hflag bitI, fun k hk => (hflag k).trans (if_neg (by simpa using hk))⟩
  · rintro ⟨hflagI, hflags⟩
    refine BitVec.eq_of_getLsbD_eq fun k _ => ?_
    rw [hbit]
    split_ifs with hk
    · exact hk ▸ hflagI
    · exact hflags k (by simpa using hk)

/-- The status a second interrupt pushes on top of a first: the first one's, with I set (R131). -/
theorem status_of_setI {s t : State} (hp : t.p = putBit s.p bitI true) :
    t.readP &&& 0xEF#8 = (s.readP &&& 0xEF#8) ||| 0x04#8 := by
  have hbits : ∀ v : Byte, (putBit v bitI true ||| 0x20#8) &&& 0xEF#8 = ((v ||| 0x20#8) &&& 0xEF#8) ||| 0x04#8 := by
    decide
  rw [State.readP, hp]
  exact hbits s.p

/-- After IRQ service the line is low or masked: an IRQ that is taken sets I (R129). -/
theorem serviceIrq_masks {s : State} (hidle : s.hostIdle) (hirq : (serviceIrq s).irqLine = true) :
    (serviceIrq s).flagI = true := by
  by_cases htaken : s.irqLine = true ∧ s.flagI = false
  · rw [serviceIrq_taken htaken.1 htaken.2]
    exact enterHandler_flagI hidle .irq
  · have hmasked : s.irqLine = true → s.flagI = true := by simpa using htaken
    rw [serviceIrq_masked hmasked] at hirq ⊢
    exact hmasked hirq

section IdleHost

variable {s : State} (hidle : s.hostIdle)
include hidle

theorem enterHandler_irq_inputsKept : InputsKept s (enterHandler .irq s) :=
  enterHandler_keeps (execKeeps_inputsKept hidle) id (.refl s)

theorem serviceIrq_inputsKept : InputsKept s (serviceIrq s) := by
  unfold serviceIrq
  split_ifs
  · exact enterHandler_irq_inputsKept hidle
  · exact .refl s

/-- After NMI service nothing comes before the fetch: an NMI that is taken clears its flag and sets I (R130). -/
theorem serviceNmi_atFetch (hcontrol : s.pendingControl = []) (hmasked : s.irqLine = true → s.flagI = true) :
    (serviceNmi s).atFetch := by
  cases hnmi : s.nmiPending
  case false =>
    rw [serviceNmi_none hnmi]
    exact ⟨hidle, hcontrol, hmasked, hnmi⟩
  case true =>
    rw [serviceNmi_taken hnmi]
    obtain ⟨-, -, -, -, -, -, -, -, -, -, -, hcleared, hqueue, hturns, -⟩ := enterHandler_frame hidle .nmi
    exact ⟨hturns.trans hidle, hqueue.trans hcontrol, fun _ => enterHandler_flagI hidle .nmi, hcleared⟩

end IdleHost

/-- Memory outside page 1 reads as before a series of pushes. -/
theorem Pushed.read_outside {vs : List Byte} {s t : State} (h : Pushed vs s t) {b : Addr} (hb : ∀ z, b ≠ stackAddr z) :
    t.mem.read b = s.mem.read b := by
  obtain ⟨-, -, hkept⟩ := h
  exact hkept b fun _ _ => hb _

end Sys2Proof.Machine
end

section

open Sys2Proof Sys2Proof.Machine

/-- Settles O6: `fetchInstr_of_decode`, at a boundary that changes nothing. -/
theorem stepRunsTheDecodedInstruction : Obligations.StepRunsTheDecodedInstruction := by
  unfold Obligations.StepRunsTheDecodedInstruction
  intro s i rest hatFetch hop hlo hhi hdecode
  rw [step, boundary_atFetch hatFetch, fetchInstr_of_decode hatFetch.1 hop hlo hhi hdecode]

/-- Settles O12: the step fetches the hang byte alone, and the hang puts PC back on it. -/
theorem hangIsAFixedPoint : Obligations.HangIsAFixedPoint := by
  unfold Obligations.HangIsAFixedPoint
  intro s hatFetch hop hhang
  have hfetch := fetchInstr_undoc_ordinary hatFetch.1 hop (layout_eq_undoc hhang)
  have hback : s.pc + 1#16 - 1#16 = s.pc := BitVec.add_sub_cancel _ _
  have hexec : exec (.uhang (s.mem.read s.pc)) (s.withPc (s.pc + 1#16)) = .next s :=
    congrArg (fun pc => Host.Outcome.next (s.withPc pc)) hback
  exact ⟨_, step_atFetch hatFetch hfetch hexec⟩

/-- Settles O11: after the two services nothing comes before the fetch, so the next boundary changes nothing. -/
theorem interruptsAreServicedBeforeTheInstruction : Obligations.InterruptsAreServicedBeforeTheInstruction := by
  unfold Obligations.InterruptsAreServicedBeforeTheInstruction
  intro s hidle hcontrol
  obtain ⟨-, -, -, -, hqueue, -⟩ := serviceIrq_inputsKept hidle
  have hatFetch : (serviceNmi (serviceIrq s)).atFetch :=
    serviceNmi_atFetch (serviceIrq_idle hidle) (hqueue.trans hcontrol) (serviceIrq_masks hidle)
  exact ⟨by rw [step, step, boundary_idle hidle hcontrol, boundary_atFetch hatFetch], hatFetch⟩

/-- Settles O14: the entry of a handler through the vector at 0xFFFE, with nothing to acknowledge. -/
theorem irqServiceRule : Obligations.IrqServiceRule := by
  unfold Obligations.IrqServiceRule
  intro s hidle
  refine ⟨fun hnot => serviceIrq_masked fun hirq => hnot.resolve_left (by simp [hirq]), fun hirq hopen => ?_⟩
  rw [serviceIrq_taken hirq hopen]
  obtain ⟨-, -, hp, ha, hx, hy, hpia, -⟩ := enterHandler_frame hidle .irq
  obtain ⟨hflagI, hflags⟩ := p_eq_setI_iff.mp hp
  exact ⟨enterHandler_pushed hidle .irq, enterHandler_pc hidle .irq, hflagI, hflags, ha, hx, hy, hpia,
    enterHandler_irq_inputsKept hidle⟩

/-- Settles O15: the entry of a handler through the vector at 0xFFFA, whose acknowledge clears the pending flag. -/
theorem nmiServiceRule : Obligations.NmiServiceRule := by
  unfold Obligations.NmiServiceRule
  intro s hidle
  refine ⟨serviceNmi_none, fun hnmi => ?_⟩
  rw [serviceNmi_taken hnmi]
  obtain ⟨-, -, hp, ha, hx, hy, hpia, -, hprotect, hexpand, hirq, hcleared, hqueue, hturns, hroms⟩ :=
    enterHandler_frame hidle .nmi
  obtain ⟨hflagI, hflags⟩ := p_eq_setI_iff.mp hp
  exact ⟨enterHandler_pushed hidle .nmi, enterHandler_pc hidle .nmi, hflagI, hflags, hcleared, hirq, ha, hx, hy,
    hpia, hprotect, hexpand, hqueue, hturns, hroms⟩

/-- Settles O16: the rule of the NMI at the state the rule of the IRQ gives; the second frame lies below the first, and
neither touches a vector. -/
theorem irqFrameLiesUnderNmiFrame : Obligations.IrqFrameLiesUnderNmiFrame := by
  unfold Obligations.IrqFrameLiesUnderNmiFrame
  intro s hidle hirq hopen hnmi
  obtain ⟨hpushed, hpc, hflagI, hflags, -, -, -, -, hinputs⟩ := (irqServiceRule s hidle).2 hirq hopen
  generalize serviceIrq s = t at *
  obtain ⟨-, -, hirq', hnmi', -⟩ := id hinputs
  obtain ⟨hpushed', hpc', -, -, hcleared, hlevel, -⟩ := (nmiServiceRule t (hinputs.hostIdle hidle)).2 (hnmi'.trans hnmi)
  have hboth := hpushed.trans hpushed' (by simp)
  rw [status_of_setI (p_eq_setI_iff.mpr ⟨hflagI, hflags⟩), hpc, hi8_addrOf, lo8_addrOf] at hboth
  have hvector (z : Byte) : 0xFFFB#16 ≠ stackAddr z ∧ 0xFFFA#16 ≠ stackAddr z := by revert z; decide
  rw [hpushed.read_outside fun z => (hvector z).1, hpushed.read_outside fun z => (hvector z).2] at hpc'
  exact ⟨hboth, hpc', hlevel.trans (hirq'.trans hirq), hcleared⟩

end

section
/-! The bulk loads, memory reset and machine reset (R34, R150, R154 to R157) and state import (R152, R153): what memory
reads as after a load that fits, and what the machine is after a reset. -/

namespace Sys2Proof.Machine

/-! ### Bulk loads -/

/-- The byte stores of a load, made one by one (R150). -/
theorem hostMoves_storeMoves : ∀ (vs : List Byte) (k : Nat) (s : State),
    hostMoves (storeMoves k vs) s = s.withMem (Memory.storeFrom s.mem k vs)
  | [], _, _ => rfl
  | v :: vs, k, s => by
    by_cases hk : k < 65536
    · rw [storeMoves, if_pos hk, hostMoves, hostMoves_storeMoves vs (k + 1), Memory.storeFrom_cons hk]
      rfl
    · rw [storeMoves, if_neg hk, Memory.storeFrom, if_neg hk]
      rfl

/-- The bytes of a range, one by one. -/
theorem Memory.bytesFrom_eq_iff {m : Memory} : ∀ {k : Nat} {vs : List Byte},
    bytesFrom m k vs.length = vs ↔ ∀ i, i < vs.length → lookup m (k + i) = vs.getD i 0x00#8
  | _, [] => iff_of_true rfl nofun
  | k, v :: vs => by
    rw [List.length_cons, bytesFrom, List.cons_eq_cons, bytesFrom_eq_iff, Nat.forall_lt_succ_left]
    refine and_congr Iff.rfl (forall₂_congr fun i _ => ?_)
    rw [Nat.add_right_comm]
    exact Iff.rfl

/-- What memory reads as after a load that fits. -/
theorem Memory.read_storeFrom {vs : List Byte} {k : Nat} (hfits : k + vs.length ≤ 65536) (m : Memory) (b : Addr) :
    (storeFrom m k vs).read b =
      if k ≤ b.toNat ∧ b.toNat < k + vs.length then vs.getD (b.toNat - k) 0x00#8 else m.read b := by
  split_ifs with hin
  · have hbytes := bytesFrom_eq_iff.mp (bytesFrom_storeFrom vs k m hfits)
    rw [← hbytes (b.toNat - k) (by omega), Nat.add_sub_cancel' hin.1, read]
  · rcases Nat.lt_or_ge b.toNat k with hbelow | habove
    · exact read_storeFrom_below b vs k m hbelow
    · exact read_storeFrom_above b vs k m (by omega)

/-! ### Memory reset -/

/-- `lookup_reset` at an address. -/
theorem Memory.read_reset (r : Roms) (m : Memory) (b : Addr) :
    (reset r m).read b =
      if b.toNat < 0xE000 then 0x00#8
      else if b.toNat < 0xF000 then r.basic.toList.getD (b.toNat - 0xE000) 0x00#8
      else if b.toNat < 0xFF00 then m.read b
      else r.monitor.toList.getD (b.toNat - 0xFF00) 0x00#8 := lookup_reset r m b.toNat b.isLt

section Reset

variable (r : Roms) (m : Memory)

theorem Memory.lookup_reset_basic {i : Nat} (hi : i < 4096) :
    (reset r m).lookup (0xE000 + i) = r.basic.toList.getD i 0x00#8 := by
  rw [lookup_reset _ _ _ (by omega), if_neg (by omega), if_pos (by omega), Nat.add_sub_cancel_left]

theorem Memory.lookup_reset_monitor {i : Nat} (hi : i < 256) :
    (reset r m).lookup (0xFF00 + i) = r.monitor.toList.getD i 0x00#8 := by
  rw [lookup_reset _ _ _ (by omega), if_neg (by omega), if_neg (by omega), if_neg (by omega), Nat.add_sub_cancel_left]

variable (policy : LoadPolicy) (b : Addr)

theorem Memory.read_loadBasic : (loadImage policy r.basic.toList 0xE000#16 m).read b =
    if 0xE000 ≤ b.toNat ∧ b.toNat < 0xF000 then r.basic.toList.getD (b.toNat - 0xE000) 0x00#8 else m.read b := by
  have hlength : r.basic.toList.length = 4096 := r.basic.length_toList
  have hfits : (0xE000#16).toNat + r.basic.toList.length ≤ 65536 := by rw [hlength]; decide
  rw [loadImage_fits hfits, read_storeFrom hfits, hlength]
  rfl

theorem Memory.read_loadMonitor : (loadImage policy r.monitor.toList 0xFF00#16 m).read b =
    if 0xFF00 ≤ b.toNat then r.monitor.toList.getD (b.toNat - 0xFF00) 0x00#8 else m.read b := by
  have hlength : r.monitor.toList.length = 256 := r.monitor.length_toList
  have hfits : (0xFF00#16).toNat + r.monitor.toList.length ≤ 65536 := by rw [hlength]; decide
  have htop : (0xFF00#16).toNat ≤ b.toNat ∧ b.toNat < (0xFF00#16).toNat + 256 ↔ 0xFF00 ≤ b.toNat :=
    and_iff_left b.isLt
  rw [loadImage_fits hfits, read_storeFrom hfits, hlength, if_congr htop rfl rfl]
  rfl

end Reset

/-- The ranges of the two loads are disjoint (R155). -/
theorem Memory.read_loads_comm (r : Roms) (m : Memory) (policy : LoadPolicy) (b : Addr) :
    let loadBasic := loadImage policy r.basic.toList 0xE000#16
    let loadMonitor := loadImage policy r.monitor.toList 0xFF00#16
    (loadBasic (loadMonitor m)).read b = (loadMonitor (loadBasic m)).read b := by
  dsimp only
  rw [read_loadBasic, read_loadMonitor, read_loadMonitor, read_loadBasic]
  by_cases hmonitor : 0xFF00 ≤ b.toNat
  · rw [if_neg (by omega), if_pos hmonitor, if_pos hmonitor]
  · rw [if_neg hmonitor, if_neg hmonitor]

/-- Memory reset reads as the two loads over a memory that is zero below 0xE000 and has the kept bytes (R155). -/
theorem Memory.read_loads_eq_read_reset (r : Roms) {m z : Memory} (policy : LoadPolicy) (b : Addr)
    (hzero : b.toNat < 0xE000 → z.read b = 0x00#8)
    (hkept : 0xF000 ≤ b.toNat → b.toNat < 0xFF00 → z.read b = m.read b) :
    (loadImage policy r.monitor.toList 0xFF00#16 (loadImage policy r.basic.toList 0xE000#16 z)).read b =
      (reset r m).read b := by
  rw [read_loadMonitor, read_loadBasic, read_reset]
  by_cases hlow : b.toNat < 0xE000
  · rw [if_neg (by omega), if_neg (by omega), if_pos hlow, hzero hlow]
  by_cases hbasic : b.toNat < 0xF000
  · rw [if_neg (by omega), if_pos (by omega), if_neg hlow, if_pos hbasic]
  by_cases hmiddle : b.toNat < 0xFF00
  · rw [if_neg (by omega), if_neg (by omega), if_neg hlow, if_neg hbasic, if_pos hmiddle, hkept (by omega) hmiddle]
  · rw [if_pos (by omega), if_neg hlow, if_neg hbasic, if_neg hmiddle]

/-! ### Machine reset -/

theorem toNat_machineReset_pc (s : State) :
    (machineReset s).pc.toNat = s.roms.monitor[0xFC].toNat + 256 * s.roms.monitor[0xFD].toNat := by
  rw [machineReset_pc, toNat_addrOf, Nat.add_comm, Nat.mul_comm]

/-! ### State import -/

/-- Importing what was exported is one write of `P` by its own copy (R152, R153). -/
theorem importState_exportState (s : State) : importState (exportState s) s = s.writeP s.readP := by
  cases s
  rfl

/-- Bit 5 of `P` reads as it is stored, where it is stored as 1 (R18). -/
theorem readP_of_bit5 {s : State} (h : s.p.getLsbD 5 = true) : s.readP = s.p := by
  have hbits : ∀ v : Byte, v.getLsbD 5 = true → v ||| 0x20#8 = v := by decide
  exact hbits s.p h

end Sys2Proof.Machine
end

section

open Sys2Proof Sys2Proof.Machine

/-- Settles O24: both policies make the load's byte stores or make none. -/
theorem bulkLoadIsItsByteStores : Obligations.BulkLoadIsItsByteStores := by
  unfold Obligations.BulkLoadIsItsByteStores
  intro s policy bytes start
  cases policy
  case truncate => exact hostMoves_storeMoves bytes _ s
  case reject =>
    rcases Nat.lt_or_ge 65536 (start.toNat + bytes.length) with hover | hfits
    · rw [Memory.loadImage_reject_overflows hover, loadImageMoves, if_neg (Nat.not_le.mpr hover)]
      rfl
    · rw [Memory.loadImage_reject_fits hfits, loadImageMoves, if_pos hfits]
      exact hostMoves_storeMoves bytes _ s

/-- Settles O59: `Memory.read_reset` range by range; the two loads write disjoint ranges. -/
theorem memoryResetInstallsTheRoms : Obligations.MemoryResetInstallsTheRoms := by
  unfold Obligations.MemoryResetInstallsTheRoms
  intro s policy
  dsimp only
  refine ⟨fun b hb => ?zero, fun i => ?basic, fun b hlow hhigh => ?kept, fun i => ?monitor, ?basicRange, ?monitorRange,
    fun z hzero hkept b => ?loads, fun w e => ⟨rfl, rfl, rfl⟩⟩
  case zero => rw [Memory.read_reset, if_pos hb]
  case kept => rw [Memory.read_reset, if_neg (by omega), if_neg (by omega), if_pos hhigh]
  case basic =>
    have haddr : (BitVec.ofNat 16 (0xE000 + i.val)).toNat = 0xE000 + i.val := Nat.mod_eq_of_lt (by omega)
    rw [Memory.read, haddr, Memory.lookup_reset_basic _ _ i.isLt, rom_getD _ _ i.isLt]
    rfl
  case monitor =>
    have haddr : (BitVec.ofNat 16 (0xFF00 + i.val)).toNat = 0xFF00 + i.val := Nat.mod_eq_of_lt (by omega)
    rw [Memory.read, haddr, Memory.lookup_reset_monitor _ _ i.isLt, rom_getD _ _ i.isLt]
    rfl
  case loads =>
    rw [Memory.read_loads_comm]
    have hloads := Memory.read_loads_eq_read_reset s.roms policy b (hzero b) (hkept b)
    exact ⟨hloads, hloads⟩
  case basicRange =>
    have hlength : (0xEFFF#16).toNat + 1 - (0xE000#16).toNat = s.roms.basic.toList.length :=
      s.roms.basic.length_toList.symm
    rw [Memory.snapshot, hlength]
    exact Memory.bytesFrom_eq_iff.mpr fun i hi =>
      Memory.lookup_reset_basic _ _ (s.roms.basic.length_toList ▸ hi)
  case monitorRange =>
    have hlength : (0xFFFF#16).toNat + 1 - (0xFF00#16).toNat = s.roms.monitor.toList.length :=
      s.roms.monitor.length_toList.symm
    rw [Memory.snapshot, hlength]
    exact Memory.bytesFrom_eq_iff.mpr fun i hi =>
      Memory.lookup_reset_monitor _ _ (s.roms.monitor.length_toList ▸ hi)

/-- Settles O28: what each of the three resets writes; a launch is the machine reset by its definition. -/
theorem machineResetEffect : Obligations.MachineResetEffect := by
  unfold Obligations.MachineResetEffect
  refine ⟨fun s => ?_, fun roms powerOn => ⟨rfl, rfl, toNat_machineReset_pc (powerOn.withRoms roms)⟩⟩
  obtain ⟨hmem, hpia, hsp, hp, ha, hx, hy, hinputs⟩ := machineReset_frame s
  obtain ⟨hflagI, hflags⟩ := p_eq_setI_iff.mp hp
  refine ⟨hmem, hpia, hflagI, hflags, hsp, toNat_machineReset_pc s, ha, hx, hy, hinputs, fun b => ?_⟩
  rw [hmem, Memory.read_reset]

/-- Settles O29: the ROM images of `State.reset` are full of zeros, so that a memory reset lists no byte. -/
theorem resetStateIsAResetState : Obligations.ResetStateIsAResetState := by
  unfold Obligations.ResetStateIsAResetState
  have hmem : State.reset.mem.reset State.reset.roms = [] := Memory.reset_blank []
  refine ⟨rfl, rfl, rfl, rfl, fun _ _ => rfl, rfl, rfl, rfl, ?_⟩
  rw [machineReset, hmem]
  rfl

/-- Settles O27: state import writes the six fields a snapshot reads; of bit 5 both make a 1. -/
theorem exportAfterImport : Obligations.ExportAfterImport := by
  unfold Obligations.ExportAfterImport
  intro s c
  refine ⟨?snapshot, ⟨fun _ => rfl, rfl, rfl, .refl s⟩, rfl, fun hbit5 => ?state⟩
  case snapshot =>
    show ({ c with p := c.p ||| 0x20#8 ||| 0x20#8 } : CpuSnapshot) = _
    rw [BitVec.or_assoc, BitVec.or_self]
  case state =>
    have hsame : s.p ||| 0x20#8 = s.p := readP_of_bit5 hbit5
    rw [importState_exportState, readP_of_bit5 hbit5, State.writeP, hsame]
    rfl

/-- Settles O5: the table of R122, counted. -/
theorem undocumentedClassCounts : Obligations.UndocumentedClassCounts := by
  unfold Obligations.UndocumentedClassCounts
  decide +kernel

end
